-- ==== Sys2Proof/Word.lean ====
section
/-! DEFINITION. The word types of RSM (spec 00_scope.md R7, R8): a register and a command are 32 bits, a codeword and a
field element are one byte. -/

namespace Sys2Proof

/-- The value of a register, of a host access or of a command (R7: REG_WIDTH = 32). -/
abbrev Word := BitVec 32

/-- An unsigned 8-bit value (R8): a codeword, or an element of GF(2^8). -/
abbrev Byte := BitVec 8

end Sys2Proof
end

