-- ==== Sys2Proof/Syntax.lean ====
section
/-! DEFINITION. The commands of the RSM command set version 1 (30_encoding.md R150), one constructor per row of
spec/opcode_table.json, with the operands the format of the row gives (R141 to R148), and the way a command is written
(R154). -/

namespace Sys2Proof

/-- The operand of a field buf, src or dst: one of the three polynomial buffers (R149). Code 3 is reserved and has no
constructor. -/
inductive PolyBuf where
  | pa
  | pb
  | pr
  deriving DecidableEq, Repr

/-- A command. Operands are as the pseudocode uses them: `n` of GF_EXP is a signed number, shifts, counts and pattern
indices are numbers, field elements are bytes. -/
inductive Instr where
  /-- NOP (R330) -/
  | nop
  /-- GF_EXP n (R210) -/
  | gfExp (n : Int)
  /-- GF_LOG x (R211) -/
  | gfLog (x : Byte)
  /-- GF_MUL a, b (R212) -/
  | gfMul (a b : Byte)
  /-- POLY_NEW buf, shift (R240) -/
  | polyNew (buf : PolyBuf) (shift : Nat)
  /-- POLY_COPY dst, src: the destination first, as R154 writes it (R241) -/
  | polyCopy (dst src : PolyBuf)
  /-- POLY_MUL (R242) -/
  | polyMul
  /-- POLY_MOD (R243) -/
  | polyMod
  /-- POLY_GEN n (R244) -/
  | polyGen (n : Nat)
  /-- RS_FINALIZE (R264) -/
  | rsFinalize
  /-- RS_BLOCKS (R265) -/
  | rsBlocks
  /-- RS_INTERLEAVE (R267) -/
  | rsInterleave
  /-- RS_ENCODE (R268) -/
  | rsEncode
  /-- MASK_EVAL k (R300) -/
  | maskEval (k : Nat)
  /-- MASK_SELECT (R310) -/
  | maskSelect
  /-- MASK_CLEAR (R311) -/
  | maskClear
  deriving DecidableEq, Repr

/-- The name of a polynomial buffer in a written command (R154). -/
def PolyBuf.name : PolyBuf → String
  | .pa => "PA"
  | .pb => "PB"
  | .pr => "PR"

/-- The mnemonic of a command (R150). -/
def Instr.mnemonic : Instr → String
  | .nop => "NOP"
  | .gfExp _ => "GF_EXP"
  | .gfLog _ => "GF_LOG"
  | .gfMul _ _ => "GF_MUL"
  | .polyNew _ _ => "POLY_NEW"
  | .polyCopy _ _ => "POLY_COPY"
  | .polyMul => "POLY_MUL"
  | .polyMod => "POLY_MOD"
  | .polyGen _ => "POLY_GEN"
  | .rsFinalize => "RS_FINALIZE"
  | .rsBlocks => "RS_BLOCKS"
  | .rsInterleave => "RS_INTERLEAVE"
  | .rsEncode => "RS_ENCODE"
  | .maskEval _ => "MASK_EVAL"
  | .maskSelect => "MASK_SELECT"
  | .maskClear => "MASK_CLEAR"

/-- The written operands of a command, in R154's order, numbers in decimal. -/
def Instr.operandTexts : Instr → List String
  | .gfExp n => [toString n]
  | .gfLog x => [toString x.toNat]
  | .gfMul a b => [toString a.toNat, toString b.toNat]
  | .polyNew buf shift => [buf.name, toString shift]
  | .polyCopy dst src => [dst.name, src.name]
  | .polyGen n => [toString n]
  | .maskEval k => [toString k]
  | .nop | .polyMul | .polyMod | .rsFinalize | .rsBlocks | .rsInterleave | .rsEncode | .maskSelect | .maskClear => []

/-- A command as R154 writes it: the mnemonic, then the operands separated by commas. -/
def Instr.text (i : Instr) : String :=
  match i.operandTexts with
  | [] => i.mnemonic
  | ops => i.mnemonic ++ " " ++ String.intercalate ", " ops

end Sys2Proof
end

