-- ==== Sys2Proof/WellFormed.lean ====
section
/-! DEFINITION. Which commands fit their fields. R154: 'An assembler refuses an operand that does not fit its field'.
A byte operand and a buffer name always fit, by their types. -/

namespace Sys2Proof

/-- Every operand of the command fits the field its format gives it (R142, R145, R147, R148, R154). -/
def Instr.wf : Instr → Bool
  | .gfExp n => decide (-32768 ≤ n) && decide (n ≤ 32767)
  | .polyNew _ shift => decide (shift ≤ 511)
  | .polyGen n => decide (n ≤ 511)
  | .maskEval k => decide (k ≤ 7)
  | .nop | .gfLog _ | .gfMul _ _ | .polyCopy _ _ | .polyMul | .polyMod | .rsFinalize | .rsBlocks | .rsInterleave
  | .rsEncode | .maskSelect | .maskClear => true

end Sys2Proof
end

