-- ==== Sys2Proof/Decode.lean ====
section
/-! DEFINITION. From a command word to the command, and back (30_encoding.md). Decoding is total: every word that spells
no command is refused by a reason, and each of the reasons is the command error ILLEGAL_COMMAND (R151, R152). -/

namespace Sys2Proof

/-- The assigned opcodes (R150). -/
inductive Opcode where
  | nop | gfExp | gfLog | gfMul
  | polyNew | polyCopy | polyMul | polyMod | polyGen
  | rsFinalize | rsBlocks | rsInterleave | rsEncode
  | maskEval | maskSelect | maskClear
  deriving DecidableEq, Repr

/-- The formats of a command word (R141 to R148). -/
inductive Format where
  | n | i16 | b8 | ab | ps | pp | n9 | k
  deriving DecidableEq, Repr

/-- Why a word spells no command. Each reason is ILLEGAL_COMMAND (R151). -/
inductive DecodeError where
  /-- bits 31:24 are no assigned opcode (R152) -/
  | reservedOpcode
  /-- a must-be-zero bit is 1 (R151) -/
  | mustBeZero
  /-- a polynomial-buffer field holds the reserved code 3 (R149) -/
  | reservedBuffer
  deriving DecidableEq, Repr

/-- The rows of R150, in its order. -/
def Opcode.all : List Opcode :=
  [.nop, .gfExp, .gfLog, .gfMul, .polyNew, .polyCopy, .polyMul, .polyMod, .polyGen,
   .rsFinalize, .rsBlocks, .rsInterleave, .rsEncode, .maskEval, .maskSelect, .maskClear]

/-- The op field of a row (R150). -/
def Opcode.code : Opcode → Byte
  | .nop => 0x00#8
  | .gfExp => 0x01#8
  | .gfLog => 0x02#8
  | .gfMul => 0x03#8
  | .polyNew => 0x10#8
  | .polyCopy => 0x11#8
  | .polyMul => 0x12#8
  | .polyMod => 0x13#8
  | .polyGen => 0x14#8
  | .rsFinalize => 0x20#8
  | .rsBlocks => 0x21#8
  | .rsInterleave => 0x22#8
  | .rsEncode => 0x23#8
  | .maskEval => 0x30#8
  | .maskSelect => 0x31#8
  | .maskClear => 0x32#8

/-- The format of a row (R150). -/
def Opcode.format : Opcode → Format
  | .gfExp => .i16
  | .gfLog => .b8
  | .gfMul => .ab
  | .polyNew => .ps
  | .polyCopy => .pp
  | .polyGen => .n9
  | .maskEval => .k
  | .nop | .polyMul | .polyMod | .rsFinalize | .rsBlocks | .rsInterleave | .rsEncode | .maskSelect | .maskClear => .n

/-- The mask of the fixed bits of a word of the format: op and the must-be-zero bits (R141 to R148, R150). -/
def Format.mask : Format → Word
  | .n => 0xFFFFFFFF#32
  | .i16 => 0xFFFF0000#32
  | .b8 => 0xFFFFFF00#32
  | .ab => 0xFFFF0000#32
  | .ps => 0xFFFCFE00#32
  | .pp => 0xFFF0FFFF#32
  | .n9 => 0xFFFFFE00#32
  | .k => 0xFFFFFFF8#32

/-- The match value of a row: op in bits 31:24 and zeros below (R150). -/
def Opcode.matchWord (o : Opcode) : Word := o.code ++ 0#24

/-- The row whose op equals w[31:24], if there is one (R151). -/
def opcodeOf (w : Word) : Option Opcode :=
  Opcode.all.find? (fun o => o.code == w.extractLsb' 24 8)

/-- The buffer a polynomial-buffer code names; code 3 is reserved (R149). -/
def polyBufOf (code : BitVec 2) : Option PolyBuf :=
  if code = 0#2 then some .pa
  else if code = 1#2 then some .pb
  else if code = 2#2 then some .pr
  else none

/-- The code of a polynomial buffer (R149). -/
def polyBufCode : PolyBuf → BitVec 2
  | .pa => 0#2
  | .pb => 1#2
  | .pr => 2#2

/-- The command of a row with the fields of w (R142 to R149), or the reason a buffer field refuses it. -/
def readOperands (o : Opcode) (w : Word) : Except DecodeError Instr :=
  match o with
  | .nop => .ok .nop
  | .gfExp => .ok (.gfExp (w.extractLsb' 0 16).toInt)
  | .gfLog => .ok (.gfLog (w.extractLsb' 0 8))
  | .gfMul => .ok (.gfMul (w.extractLsb' 8 8) (w.extractLsb' 0 8))
  | .polyNew =>
    match polyBufOf (w.extractLsb' 16 2) with
    | some buf => .ok (.polyNew buf (w.extractLsb' 0 9).toNat)
    | none => .error .reservedBuffer
  | .polyCopy =>
    match polyBufOf (w.extractLsb' 18 2), polyBufOf (w.extractLsb' 16 2) with
    | some src, some dst => .ok (.polyCopy dst src)
    | _, _ => .error .reservedBuffer
  | .polyMul => .ok .polyMul
  | .polyMod => .ok .polyMod
  | .polyGen => .ok (.polyGen (w.extractLsb' 0 9).toNat)
  | .rsFinalize => .ok .rsFinalize
  | .rsBlocks => .ok .rsBlocks
  | .rsInterleave => .ok .rsInterleave
  | .rsEncode => .ok .rsEncode
  | .maskEval => .ok (.maskEval (w.extractLsb' 0 3).toNat)
  | .maskSelect => .ok .maskSelect
  | .maskClear => .ok .maskClear

/-- Decoding, total on every word (R151): the row by op, then the fixed bits, then the buffer codes. -/
def decode (w : Word) : Except DecodeError Instr :=
  match opcodeOf w with
  | none => .error .reservedOpcode
  | some o => if w &&& o.format.mask = o.matchWord then readOperands o w else .error .mustBeZero

/-- The word of a command (R154). It is the command's word for a well-formed command. -/
def encode : Instr → Word
  | .nop => 0x00000000#32
  | .gfExp n => 0x01000000#32 ||| BitVec.ofNat 32 (n % 65536).toNat
  | .gfLog x => 0x02000000#32 ||| x.setWidth 32
  | .gfMul a b => 0x03000000#32 ||| (a.setWidth 32 <<< 8) ||| b.setWidth 32
  | .polyNew buf shift => 0x10000000#32 ||| ((polyBufCode buf).setWidth 32 <<< 16) ||| BitVec.ofNat 32 shift
  | .polyCopy dst src =>
    0x11000000#32 ||| ((polyBufCode src).setWidth 32 <<< 18) ||| ((polyBufCode dst).setWidth 32 <<< 16)
  | .polyMul => 0x12000000#32
  | .polyMod => 0x13000000#32
  | .polyGen n => 0x14000000#32 ||| BitVec.ofNat 32 n
  | .rsFinalize => 0x20000000#32
  | .rsBlocks => 0x21000000#32
  | .rsInterleave => 0x22000000#32
  | .rsEncode => 0x23000000#32
  | .maskEval k => 0x30000000#32 ||| BitVec.ofNat 32 k
  | .maskSelect => 0x31000000#32
  | .maskClear => 0x32000000#32

/-- The opcode row of a command (R150). -/
def opcodeOfInstr : Instr → Opcode
  | .nop => .nop
  | .gfExp _ => .gfExp
  | .gfLog _ => .gfLog
  | .gfMul _ _ => .gfMul
  | .polyNew _ _ => .polyNew
  | .polyCopy _ _ => .polyCopy
  | .polyMul => .polyMul
  | .polyMod => .polyMod
  | .polyGen _ => .polyGen
  | .rsFinalize => .rsFinalize
  | .rsBlocks => .rsBlocks
  | .rsInterleave => .rsInterleave
  | .rsEncode => .rsEncode
  | .maskEval _ => .maskEval
  | .maskSelect => .maskSelect
  | .maskClear => .maskClear

/-- The command this decoder reads from a command word given as the number `w`, of which the table gives `nbits` bits; the
bits above `nbits` are 0. A command is one 32-bit word moved whole (R110, R140), so no byte order enters. -/
def decodeTableWord (nbits w : Nat) : Option Instr :=
  (decode (BitVec.ofNat 32 (w % 2 ^ nbits))).toOption

end Sys2Proof
end

