-- ==== Sys2Proof/Config.lean ====
section
/-! DEFINITION. What one implementation of RSM fixes (00_scope.md R7), and the free values of the model.
The free values are opaque: no proof can use a value of theirs. -/

namespace Sys2Proof.Config

/-- The 4 KiB page of the host's address space at which the platform puts the register window.
OPEN in the spec (R7, R114), so it has no body here. Log entry 5. -/
opaque basePage : Nat

/-- P_BASE, the host bus address of register offset 0x000; 4 KiB aligned (R7). -/
def pBase : Nat := 4096 * basePage

/-- FREE VALUE. The byte that index `index` of the byte buffer numbered `buf` (the SEL code of R101) shows after reset
number `gen`, until something writes it: R452, 'a draw: a free value under no law'. Log entry 4. -/
opaque drawByte (gen buf index : Nat) : Byte

/-- FREE VALUE. The 32 cells that word `word` of row `row` of MAT shows after reset number `gen`, until something writes
the word: R452, one draw per cell. Log entry 4. -/
opaque drawCells (gen row word : Nat) : Word

/-- WINDOW: the size of the register window in bytes (R7). -/
def windowBytes : Nat := 4096

/-- DATA_BUF_BYTES (R7, R101). -/
def dataBufBytes : Nat := 4096

/-- CW_BUF_BYTES (R7, R101). -/
def cwBufBytes : Nat := 4096

/-- POLY_MAX: the capacity of PA, PB and PR in coefficients (R7, R101). -/
def polyMax : Nat := 256

/-- MAX_BLOCKS: the most Reed–Solomon blocks of one encode (R7, R261). -/
def maxBlocks : Nat := 128

/-- EC_STRIDE: the bytes of the EC store reserved for each block (R7, R109). -/
def ecStride : Nat := 256

/-- N_MIN: the smallest matrix side (R7, R300). -/
def sideMin : Nat := 21

/-- N_MAX: the largest matrix side (R7, R300). -/
def sideMax : Nat := 177

/-- MAT_WORDS: the words of one row of MAT (R7, R106). -/
def matWords : Nat := 6

/-- The constant value of the ID register: ASCII 'RSM' and command-set version 1 (R2, R32). -/
def idValue : Word := 0x52534D01#32

end Sys2Proof.Config
end

