-- ==== Sys2Proof/Machine/Memory.lean ====
section
/-! DEFINITION. The sparse memories of the model. A memory lists what has been written since reset, as pairs of an address
and a value, in one canonical form: the addresses strictly rise. An unlisted address holds no written value (`none`), and
no entry is `none`, so equal memories are equal lists. What a read of an unwritten place shows is the free value of R452
(Machine/Ops.lean; log entry 4). -/

namespace Sys2Proof.Machine

/-- A memory: pairs of an address and the value last written there. A `Memory Byte` is a list of `Host.Cell`. -/
abbrev Memory (α : Type) := List (Nat × α)

/-- The value last written at an address, or `none` where nothing has been written. -/
def Memory.read {α : Type} : Memory α → Nat → Option α
  | [], _ => none
  | (b, v) :: rest, a => if a = b then some v else Memory.read rest a

/-- Write one value, keeping the addresses strictly rising. -/
def Memory.write {α : Type} : Memory α → Nat → α → Memory α
  | [], a, v => [(a, v)]
  | (b, w) :: rest, a, v =>
    if a < b then (a, v) :: (b, w) :: rest
    else if a = b then (a, v) :: rest
    else (b, w) :: Memory.write rest a v

/-- Write values at consecutive addresses, from `base` up. -/
def Memory.writeList {α : Type} (m : Memory α) (base : Nat) : List α → Memory α
  | [] => m
  | v :: rest => Memory.writeList (Memory.write m base v) (base + 1) rest

/-- Every listed address is `low` or above, and the addresses strictly rise. -/
def Memory.risesFrom {α : Type} (low : Nat) : Memory α → Bool
  | [] => true
  | (a, _) :: rest => decide (low ≤ a) && Memory.risesFrom (a + 1) rest

/-- The canonical form: the addresses strictly rise. -/
def Memory.wf {α : Type} (m : Memory α) : Bool := Memory.risesFrom 0 m

/-- Every listed address is below `cap`. -/
def Memory.below {α : Type} (cap : Nat) (m : Memory α) : Bool := m.all (fun c => decide (c.1 < cap))

end Sys2Proof.Machine
end

