-- ==== Sys2Proof/Machine/State.lean ====
section
/-! DEFINITION. The state of RSM: every register of 10_state.md, every internal memory, the engine's state, and the few
fields of the model's own that hold what is outside the device. All of it is plain data. -/

namespace Sys2Proof.Machine

/-- The cause of a command error, the value of ERR_CAUSE (R401). Codes 7 to 15 are never raised. -/
inductive ErrCause where
  | noError
  | illegalCommand
  | configError
  | domainError
  | encodingOverflow
  | capacity
  | sequence
  deriving DecidableEq, Repr

/-- The cause of an access error, the value of AERR_CAUSE (R410). Codes 6 and 7 are never raised. -/
inductive AerrCause where
  | noError
  | busy
  | bounds
  | readOnly
  | unmapped
  | size
  deriving DecidableEq, Repr

/-- A command error: its cause and its ERR_INFO value (R401). -/
structure CommandError where
  cause : ErrCause
  info : Word
  deriving DecidableEq, Repr

/-- An access error: its cause and the register offset of the access (R410). -/
structure AccessError where
  cause : AerrCause
  offset : BitVec 12
  deriving DecidableEq, Repr

/-- The arithmetic of penalty rule 4 (R35, R304): CTRL.R4MODE = 0 is EXACT, 1 is TRUNC. -/
inductive R4Mode where
  | exactRatio
  | truncPercent
  deriving DecidableEq, Repr

/-- One GROUP register: a `(blockCount, totalCodewords, dataCodewords)` group (R50). -/
structure Group where
  count : BitVec 8
  total : BitVec 8
  data : BitVec 8
  deriving DecidableEq, Repr

/-- The six byte buffers (R101). -/
inductive Buf where
  | data
  | pa
  | pb
  | pr
  | cw
  | ec
  deriving DecidableEq, Repr

/-- Who moves: the engine or the host (R6). -/
inductive Agent where
  | engine
  | host
  deriving DecidableEq, Repr

/-- What the outside does to the device next. `offset` is the bus address less P_BASE (R41, R111), `width` is in bits. -/
inductive HostInput where
  /-- a read access -/
  | read (width : Nat) (offset : BitVec 12)
  /-- a write access -/
  | write (width : Nat) (offset : BitVec 12) (value : Word)
  /-- the WAIT of R155: read STATUS until its bit 0 is 0 -/
  | waitIdle
  /-- the reset input asserted and released (R450) -/
  | resetInput
  deriving DecidableEq, Repr

/-- The state of RSM. Reserved register bits read 0 (R62), so registers hold their fields alone; Machine/Flags.lean puts
the words together. -/
structure State where
  /-- STATUS.BUSY (R33): a command is in flight, and it is the word `lastCmd` (R65) -/
  busy : Bool
  /-- STATUS.DONE (R33) -/
  done : Bool
  /-- STATUS.ERR (R33) -/
  err : Bool
  /-- STATUS.AERR (R33) -/
  aerr : Bool
  /-- STATUS.ECV (R33, R266) -/
  ecv : Bool
  /-- CTRL.IE_DONE (R35) -/
  ieDone : Bool
  /-- CTRL.IE_ERR (R35) -/
  ieErr : Bool
  /-- CTRL.IE_AERR (R35) -/
  ieAerr : Bool
  /-- CTRL.R4MODE (R35) -/
  r4mode : R4Mode
  /-- LAST_CMD (R37, R331) -/
  lastCmd : Word
  /-- the R4MODE value sampled at the last issue of a MASK_EVAL (R65, R331) -/
  sampledR4 : R4Mode
  /-- ERR_CAUSE (R38) -/
  errCause : ErrCause
  /-- ERR_INFO (R39) -/
  errInfo : Word
  /-- AERR_CAUSE (R40) -/
  aerrCause : AerrCause
  /-- AERR_ADDR (R41) -/
  aerrAddr : BitVec 12
  /-- RESULT (R42) -/
  result : Word
  /-- BUF_ADDR.INDEX (R43) -/
  bufIndex : BitVec 16
  /-- BUF_ADDR.SEL (R43) -/
  bufSel : BitVec 4
  /-- PA_LEN (R45) -/
  paLen : BitVec 9
  /-- PB_LEN (R46) -/
  pbLen : BitVec 9
  /-- PR_LEN (R47) -/
  prLen : BitVec 9
  /-- DATA_LEN_BITS (R48) -/
  dataLenBits : BitVec 16
  /-- CW_LEN (R49) -/
  cwLen : BitVec 16
  /-- GROUP0 to GROUP3 (R50) -/
  groups : Vector Group 4
  /-- MAT_SIZE (R55) -/
  matSize : BitVec 8
  /-- MAT_ADDR.ROW (R56) -/
  matRow : BitVec 8
  /-- MAT_ADDR.WORD (R56) -/
  matWord : BitVec 3
  /-- PEN_VALID (R58) -/
  penValid : BitVec 8
  /-- SEL.MASK (R59) -/
  selMask : BitVec 3
  /-- SEL.VALID (R59) -/
  selValid : Bool
  /-- PEN_R1 (R60) -/
  penR1 : Word
  /-- PEN_R2 (R60) -/
  penR2 : Word
  /-- PEN_R3 (R60) -/
  penR3 : Word
  /-- PEN_R4 (R60) -/
  penR4 : Word
  /-- PEN0 to PEN7 (R61) -/
  pens : Vector Word 8
  /-- buffer DATA (R101) -/
  data : Memory Byte
  /-- buffer PA (R101) -/
  pa : Memory Byte
  /-- buffer PB (R101) -/
  pb : Memory Byte
  /-- buffer PR (R101) -/
  pr : Memory Byte
  /-- buffer CW (R101) -/
  cw : Memory Byte
  /-- buffer EC (R101, R109) -/
  ec : Memory Byte
  /-- the matrix memory MAT, word w of row r at address 6 r + w (R106) -/
  mat : Memory Word
  /-- the model's own: which reset's draws unwritten places show (R452; log entry 4) -/
  draws : Nat
  /-- the model's own: what the outside will do, oldest first (log entry 3) -/
  host : List HostInput
  /-- the model's own: who moves in the next steps, oldest first (R334, R412; log entry 2) -/
  turns : List Agent
  /-- the model's own: what the host's reads returned, newest first (log entry 3) -/
  replies : List Word
  /-- the model's own: the sticky record of command errors of R469, newest first (log entry 7) -/
  cmdErrors : List CommandError
  /-- the model's own: the same for access errors, newest first (log entry 7) -/
  accessErrors : List AccessError
  deriving DecidableEq, Repr

/-- Why the machine stops. NOTHING stops RSM: a command error and an access error are reports, after which the device goes
on (R402, R404, R410, R421), so no reason exists, and nothing raises one. Safe: there is no state the model stops in where
the device would go on. -/
inductive Fault where
  deriving DecidableEq, Repr

/-- Why an instruction has no meaning. -/
inductive Refusal where
  /-- Raised by `exec` alone, for a constructor whose meaning is not written yet, with the mnemonic of its row. Safe: the
  model stops where the device goes on. No arm of this model raises it. -/
  | notModelled (mnemonic : String)
  deriving DecidableEq, Repr

/-- The machine right after hardware reset (R450). Every register holds the value R450 gives; nothing is listed in the
memories (R452). `sampledR4` (log entry 6) and the model's own fields (log entries 2, 3, 4, 7) have values the model
chose. -/
def State.reset : State where
  busy := false
  done := false
  err := false
  aerr := false
  ecv := false
  ieDone := false
  ieErr := false
  ieAerr := false
  r4mode := .exactRatio
  lastCmd := 0#32
  sampledR4 := .exactRatio
  errCause := .noError
  errInfo := 0#32
  aerrCause := .noError
  aerrAddr := 0#12
  result := 0#32
  bufIndex := 0#16
  bufSel := 0#4
  paLen := 0#9
  pbLen := 0#9
  prLen := 0#9
  dataLenBits := 0#16
  cwLen := 0#16
  groups := #v[⟨0#8, 0#8, 0#8⟩, ⟨0#8, 0#8, 0#8⟩, ⟨0#8, 0#8, 0#8⟩, ⟨0#8, 0#8, 0#8⟩]
  matSize := 0#8
  matRow := 0#8
  matWord := 0#3
  penValid := 0#8
  selMask := 0#3
  selValid := false
  penR1 := 0#32
  penR2 := 0#32
  penR3 := 0#32
  penR4 := 0#32
  pens := #v[0#32, 0#32, 0#32, 0#32, 0#32, 0#32, 0#32, 0#32]
  data := []
  pa := []
  pb := []
  pr := []
  cw := []
  ec := []
  mat := []
  draws := 0
  host := []
  turns := []
  replies := []
  cmdErrors := []
  accessErrors := []

end Sys2Proof.Machine
end

