-- ==== Sys2Proof/Machine/Flags.lean ====
section
/-! DEFINITION. The flags and the words of the status, control, error and field registers (10_state.md), the write rules
of STATUS and CTRL, and the interrupt output (60_exceptions.md R420). -/

namespace Sys2Proof.Machine

/-- The code of a command-error cause in ERR_CAUSE[3:0] (R401). -/
def ErrCause.code : ErrCause → BitVec 4
  | .noError => 0#4
  | .illegalCommand => 1#4
  | .configError => 2#4
  | .domainError => 3#4
  | .encodingOverflow => 4#4
  | .capacity => 5#4
  | .sequence => 6#4

/-- The code of an access-error cause in AERR_CAUSE[2:0] (R410). -/
def AerrCause.code : AerrCause → BitVec 3
  | .noError => 0#3
  | .busy => 1#3
  | .bounds => 2#3
  | .readOnly => 3#3
  | .unmapped => 4#3
  | .size => 5#3

/-- The bit CTRL.R4MODE (R35). -/
def R4Mode.bit : R4Mode → Bool
  | .exactRatio => false
  | .truncPercent => true

/-- The mode a written CTRL.R4MODE bit selects (R35). -/
def R4Mode.ofBit (b : Bool) : R4Mode := if b then .truncPercent else .exactRatio

/-- STATUS as a word: ECV, AERR, ERR, DONE, BUSY in bits 4 to 0 (R33). -/
def statusWord (s : State) : Word :=
  0#27 ++ BitVec.ofBool s.ecv ++ BitVec.ofBool s.aerr ++ BitVec.ofBool s.err ++ BitVec.ofBool s.done
    ++ BitVec.ofBool s.busy

/-- CTRL as a word: R4MODE, IE_AERR, IE_ERR, IE_DONE in bits 3 to 0; SOFT_RESET reads 0 (R35). -/
def ctrlWord (s : State) : Word :=
  0#28 ++ BitVec.ofBool s.r4mode.bit ++ BitVec.ofBool s.ieAerr ++ BitVec.ofBool s.ieErr ++ BitVec.ofBool s.ieDone

/-- ERR_CAUSE as a word (R38). -/
def errCauseWord (s : State) : Word := 0#28 ++ s.errCause.code

/-- AERR_CAUSE as a word (R40). -/
def aerrCauseWord (s : State) : Word := 0#29 ++ s.aerrCause.code

/-- AERR_ADDR as a word (R41). -/
def aerrAddrWord (s : State) : Word := 0#20 ++ s.aerrAddr

/-- BUF_ADDR as a word: SEL in bits 19:16, INDEX in bits 15:0 (R43). -/
def bufAddrWord (s : State) : Word := 0#12 ++ s.bufSel ++ s.bufIndex

/-- A GROUP register as a word: DATA, TOTAL, COUNT in bits 23:0 (R50). -/
def Group.word (g : Group) : Word := 0#8 ++ g.data ++ g.total ++ g.count

/-- The fields a written GROUP word stores; bits 31:24 are ignored (R50, R51). -/
def Group.ofWord (v : Word) : Group :=
  { count := v.extractLsb' 0 8, total := v.extractLsb' 8 8, data := v.extractLsb' 16 8 }

/-- MAT_ADDR as a word: WORD in bits 10:8, ROW in bits 7:0 (R56). -/
def matAddrWord (s : State) : Word := 0#21 ++ s.matWord ++ s.matRow

/-- SEL as a word: VALID in bit 31, MASK in bits 2:0 (R59). -/
def selWord (s : State) : Word := BitVec.ofBool s.selValid ++ 0#28 ++ s.selMask

/-- A host write of STATUS: a 1 in bit 1, 2 or 3 clears DONE, ERR or AERR; every other bit is ignored (R34). -/
def writeStatus (v : Word) (s : State) : State :=
  { s with
    done := s.done && !v.getLsbD 1
    err := s.err && !v.getLsbD 2
    aerr := s.aerr && !v.getLsbD 3 }

/-- The enables and the mode a CTRL write stores when it is no soft reset: CTRL[3:0] <- v[3:0] (R36). -/
def writeCtrlFields (v : Word) (s : State) : State :=
  { s with
    ieDone := v.getLsbD 0
    ieErr := v.getLsbD 1
    ieAerr := v.getLsbD 2
    r4mode := R4Mode.ofBit (v.getLsbD 3) }

/-- The interrupt output, a combinational function of the registers (R420). -/
def irq (s : State) : Bool := (s.done && s.ieDone) || (s.err && s.ieErr) || (s.aerr && s.ieAerr)

end Sys2Proof.Machine
end

