-- ==== Sys2Proof/Machine/Ops.lean ====
section
/-! DEFINITION. The named operations on registers and memories, and the events every command shares: issue, completion,
the command error (this hardware's exception: R400 to R402), the access error and reset. There is no return from an
exception (R421). -/

namespace Sys2Proof.Machine

/-- The SEL code of a byte buffer (R101). -/
def Buf.sel : Buf → Nat
  | .data => 0
  | .pa => 1
  | .pb => 2
  | .pr => 3
  | .cw => 4
  | .ec => 5

/-- The buffer a SEL code names; 6 to 15 are unmapped (R43, R101). -/
def bufOfSel (sel : BitVec 4) : Option Buf :=
  [Buf.data, .pa, .pb, .pr, .cw, .ec].find? (fun b => b.sel == sel.toNat)

/-- CAP, the capacity of a byte buffer in bytes (R101). -/
def Buf.cap : Buf → Nat
  | .data => Config.dataBufBytes
  | .pa | .pb | .pr => Config.polyMax
  | .cw => Config.cwBufBytes
  | .ec => Config.maxBlocks * Config.ecStride

/-- The buffers the host may only read (R101, R102). -/
def Buf.hostReadOnly : Buf → Bool
  | .pr | .cw | .ec => true
  | .data | .pa | .pb => false

/-- What has been written in a byte buffer since reset. -/
def bufMem (s : State) : Buf → Memory Byte
  | .data => s.data
  | .pa => s.pa
  | .pb => s.pb
  | .pr => s.pr
  | .cw => s.cw
  | .ec => s.ec

/-- The state with a byte buffer replaced. -/
def setBufMem (s : State) (b : Buf) (m : Memory Byte) : State :=
  match b with
  | .data => { s with data := m }
  | .pa => { s with pa := m }
  | .pb => { s with pb := m }
  | .pr => { s with pr := m }
  | .cw => { s with cw := m }
  | .ec => { s with ec := m }

/-- Buf(b)[i]: the byte last written there, or the draw of this reset where nothing has been written (R101, R103, R452). -/
def readByte (s : State) (b : Buf) (i : Nat) : Byte :=
  (Memory.read (bufMem s b) i).getD (Config.drawByte s.draws b.sel i)

/-- Buf(b)[base .. base + n). -/
def readBytes (s : State) (b : Buf) (base n : Nat) : List Byte :=
  (List.range n).map (fun j => readByte s b (base + j))

/-- Buf(b)[i] <- v. -/
def writeByte (s : State) (b : Buf) (i : Nat) (v : Byte) : State :=
  setBufMem s b (Memory.write (bufMem s b) i v)

/-- Buf(b)[base + j] <- vs[j] for every j. -/
def writeBytes (s : State) (b : Buf) (base : Nat) (vs : List Byte) : State :=
  setBufMem s b (Memory.writeList (bufMem s b) base vs)

/-- Where word `word` of row `row` of MAT is kept: a row has six words (R106). -/
def matIndex (row word : Nat) : Nat := Config.matWords * row + word

/-- Word `word` of row `row` of MAT, or its draw where nothing has been written (R106, R452). -/
def readMatWord (s : State) (row word : Nat) : Word :=
  (Memory.read s.mat (matIndex row word)).getD (Config.drawCells s.draws row word)

/-- Row `row` word `word` of MAT <- v (R107). -/
def writeMatWord (s : State) (row word : Nat) (v : Word) : State :=
  { s with mat := Memory.write s.mat (matIndex row word) v }

/-- Mat[r][c], true for dark: cell 32 w + j of a row is bit 31 - j of its word w (R106). -/
def matCell (s : State) (r c : Nat) : Bool := (readMatWord s r (c / 32)).getLsbD (31 - c % 32)

/-- TOTAL_DATA, the live sum of COUNT x DATA over the groups (R52). -/
def totalData (s : State) : Nat := (s.groups.toList.map (fun g => g.count.toNat * g.data.toNat)).sum

/-- TOTAL_CW, the live sum of COUNT x TOTAL over the groups (R53). -/
def totalCw (s : State) : Nat := (s.groups.toList.map (fun g => g.count.toNat * g.total.toNat)).sum

/-- NBLOCKS, the live sum of COUNT over the groups (R54). -/
def nBlocks (s : State) : Nat := (s.groups.toList.map (fun g => g.count.toNat)).sum

/-- A command error, taken at completion (R402): ERR, ERR_CAUSE and ERR_INFO report it, BUSY becomes 0, and no other state
of the device changes. The model's sticky record notes it (R469). -/
def commandError (e : CommandError) (s : State) : State :=
  { s with
    err := true
    errCause := e.cause
    errInfo := e.info
    busy := false
    cmdErrors := e :: s.cmdErrors }

/-- A successful completion (R332): DONE becomes 1 and BUSY becomes 0. -/
def completeOk (s : State) : State := { s with done := true, busy := false }

/-- The first error of a command's checks, which are listed with their conditions in the order of R403. -/
def firstError : List (Bool × CommandError) → Option CommandError
  | [] => none
  | (failed, e) :: rest => if failed then some e else firstError rest

/-- The completion of a command (R332): its checks come before its first write (R402, R403); then all its writes, unless a
function it calls raises an error, and then none of them. -/
def complete (checks : List (Bool × CommandError)) (effect : Except CommandError State) (s : State) :
    Host.Outcome State Fault Refusal :=
  match firstError checks with
  | some e => .next (commandError e s)
  | none =>
    match effect with
    | .error e => .next (commandError e s)
    | .ok t => .next (completeOk t)

/-- The error of a word that spells no command: ILLEGAL_COMMAND with ERR_INFO = w (R151, R401). -/
def illegalCommand (w : Word) : CommandError := { cause := .illegalCommand, info := w }

/-- CONFIG_ERROR with its detail value (R401). -/
def configError (info : Nat) : CommandError := { cause := .configError, info := BitVec.ofNat 32 info }

/-- DOMAIN_ERROR with its detail value (R401). -/
def domainError (info : Nat) : CommandError := { cause := .domainError, info := BitVec.ofNat 32 info }

/-- ENCODING_OVERFLOW, whose detail value is L, the value of DATA_LEN_BITS (R401). -/
def encodingOverflow (bits : Nat) : CommandError := { cause := .encodingOverflow, info := BitVec.ofNat 32 bits }

/-- CAPACITY with its subcode (R401). -/
def capacityError (sub : Nat) : CommandError := { cause := .capacity, info := BitVec.ofNat 32 sub }

/-- SEQUENCE with its subcode (R401). -/
def sequenceError (sub : Nat) : CommandError := { cause := .sequence, info := BitVec.ofNat 32 sub }

/-- Whether a word decodes as a MASK_EVAL (R331). -/
def isMaskEval (w : Word) : Bool :=
  match decode w with
  | .ok (.maskEval _) => true
  | _ => false

/-- Issue of the command word w, one indivisible step (R331). AERR is not touched, and issue never fails. -/
def issue (w : Word) (s : State) : State :=
  { s with
    lastCmd := w
    busy := true
    done := false
    err := false
    errCause := .noError
    errInfo := 0#32
    sampledR4 := if isMaskEval w then s.r4mode else s.sampledR4 }

/-- An access error (R410): AERR, AERR_CAUSE and AERR_ADDR report it and nothing else of the device changes. The model's
record notes it (R469). -/
def accessError (cause : AerrCause) (offset : BitVec 12) (s : State) : State :=
  { s with
    aerr := true
    aerrCause := cause
    aerrAddr := offset
    accessErrors := ⟨cause, offset⟩ :: s.accessErrors }

/-- Hardware reset, and the soft reset that equals it (R450, R451): every register and the engine as after reset, a command
in flight abandoned (R335), the memories unspecified again with fresh draws (R452). What is outside the device stays. -/
def deviceReset (s : State) : State :=
  { State.reset with
    draws := s.draws + 1
    host := s.host
    turns := s.turns
    replies := s.replies
    cmdErrors := s.cmdErrors
    accessErrors := s.accessErrors }

end Sys2Proof.Machine
end

