-- ==== Sys2Proof/Machine/Operands.lean ====
section
/-! DEFINITION. How commands read their operands from the state and write their results: polynomial buffers (41_poly.md R236,
R237), the block layout (42_rs.md R260), the data bit stream (20_memory.md R105). -/

namespace Sys2Proof.Machine

/-- A polynomial, or its sequence of coefficients: highest-degree coefficient first (R10). -/
abbrev Poly := List Byte

/-- One Reed–Solomon block: t total codewords, d data codewords (R260). -/
structure Block where
  t : Nat
  d : Nat
  deriving DecidableEq, Repr

/-- n = t - d, the error-correction codewords of a block (R260). -/
def Block.n (b : Block) : Nat := b.t - b.d

/-- The byte buffer behind a polynomial buffer (R101, R149). -/
def polyMem : PolyBuf → Buf
  | .pa => .pa
  | .pb => .pb
  | .pr => .pr

/-- The length register of a polynomial buffer (R45 to R47). -/
def polyLen (s : State) : PolyBuf → Nat
  | .pa => s.paLen.toNat
  | .pb => s.pbLen.toNat
  | .pr => s.prLen.toNat

/-- Write the length register of a polynomial buffer (R237). -/
def setPolyLen (s : State) (p : PolyBuf) (n : Nat) : State :=
  match p with
  | .pa => { s with paLen := BitVec.ofNat 9 n }
  | .pb => { s with pbLen := BitVec.ofNat 9 n }
  | .pr => { s with prLen := BitVec.ofNat 9 n }

/-- poly(P) = Buf(P)[0 .. LEN): what read_poly returns when it does not fault (R236). -/
def readPoly (s : State) (p : PolyBuf) : Poly := readBytes s (polyMem p) 0 (polyLen s p)

/-- The check of read_poly (R236): CAPACITY 1 or 2 where the length register exceeds 256. Reading PR never faults. -/
def readPolyChecks (s : State) : PolyBuf → List (Bool × CommandError)
  | .pa => [(decide (Config.polyMax < s.paLen.toNat), capacityError 1)]
  | .pb => [(decide (Config.polyMax < s.pbLen.toNat), capacityError 2)]
  | .pr => []

/-- write_poly (R237): the coefficients from index 0, and the length register; bytes above keep their values. -/
def writePoly (s : State) (p : PolyBuf) (r : Poly) : State :=
  setPolyLen (writeBytes s (polyMem p) 0 r) p r.length

/-- Some coefficient is zero. -/
def hasZero (c : Poly) : Bool := c.any (fun x => x == 0#8)

/-- The blocks of the current layout, GROUP0 first (R260). -/
def blocks (s : State) : List Block :=
  s.groups.toList.flatMap (fun g => List.replicate g.count.toNat { t := g.total.toNat, d := g.data.toNat })

/-- GROUPk is used and has DATA above TOTAL (R261). -/
def groupBad (g : Group) : Bool := decide (0 < g.count.toNat) && decide (g.total.toNat < g.data.toNat)

/-- layout_check (R261), the checks every RS command makes first. The four group checks stand lowest k first. -/
def layoutChecks (s : State) : List (Bool × CommandError) :=
  [(nBlocks s == 0, configError 0x1),
   (groupBad s.groups[0], configError 0x10),
   (groupBad s.groups[1], configError 0x11),
   (groupBad s.groups[2], configError 0x12),
   (groupBad s.groups[3], configError 0x13),
   (decide (Config.maxBlocks < nBlocks s), capacityError 7),
   (decide (Config.dataBufBytes < totalData s), capacityError 5)]

/-- L, the number of valid bits of the data bit stream (R48). -/
def streamBits (s : State) : Nat := s.dataLenBits.toNat

/-- Bit k of the data bit stream: the first bit of each byte is its most significant (R105). -/
def dataBit (s : State) (k : Nat) : Bool := (readByte s .data (k / 8)).getLsbD (7 - k % 8)

/-- The data bit stream s[0 .. L) (R105). -/
def dataStream (s : State) : List Bool := (List.range (streamBits s)).map (dataBit s)

/-- The bits of a byte, most significant first (R105). -/
def byteBits (v : Byte) : List Bool := (List.range 8).map (fun k => v.getLsbD (7 - k))

/-- The byte whose bits, most significant first, are these eight (R105). -/
def byteOfBits (b7 b6 b5 b4 b3 b2 b1 b0 : Bool) : Byte :=
  BitVec.ofBool b7 ++ BitVec.ofBool b6 ++ BitVec.ofBool b5 ++ BitVec.ofBool b4 ++ BitVec.ofBool b3
    ++ BitVec.ofBool b2 ++ BitVec.ofBool b1 ++ BitVec.ofBool b0

/-- The bytes of a bit stream of whole bytes, each most significant bit first (R105). -/
def packBytes : List Bool → List Byte
  | b7 :: b6 :: b5 :: b4 :: b3 :: b2 :: b1 :: b0 :: rest => byteOfBits b7 b6 b5 b4 b3 b2 b1 b0 :: packBytes rest
  | _ => []

end Sys2Proof.Machine
end

