-- ==== Sys2Proof/Machine/Mask.lean ====
section
/-! DEFINITION. The mask-evaluation commands (43_mask.md). The penalty rules are functions of the cells M(r, c) of an N x N
matrix; true is dark. -/

namespace Sys2Proof.Machine

/-- The eight neighbour offsets (dr, dc) (R301). -/
def neighbourOffsets : List (Int × Int) :=
  [(-1, -1), (-1, 0), (-1, 1), (0, -1), (0, 1), (1, -1), (1, 0), (1, 1)]

/-- Position (r + dr, c + dc) is inside the matrix and has the colour of (r, c) (R301). -/
def sameColourAt (m : Nat → Nat → Bool) (n r c : Nat) (o : Int × Int) : Bool :=
  let y := (r : Int) + o.1
  let x := (c : Int) + o.2
  decide (0 ≤ y) && decide (y < n) && decide (0 ≤ x) && decide (x < n) && (m y.toNat x.toNat == m r c)

/-- The number of same-colour neighbours of cell (r, c) (R301). -/
def sameNeighbours (m : Nat → Nat → Bool) (n r c : Nat) : Nat :=
  (neighbourOffsets.filter (sameColourAt m n r c)).length

/-- The sum of f over 0 .. n - 1. -/
def sumTo (n : Nat) (f : Nat → Nat) : Nat := ((List.range n).map f).sum

/-- Rule 1: every cell with s > 5 same-colour neighbours adds 3 + (s - 5) (R301, C6). -/
def penaltyRule1 (m : Nat → Nat → Bool) (n : Nat) : Nat :=
  sumTo n (fun r => sumTo n (fun c =>
    let k := sameNeighbours m n r c
    if 5 < k then 3 + (k - 5) else 0))

/-- Rule 2: every 2 x 2 block with none or all of its cells dark adds 3 (R302). -/
def penaltyRule2 (m : Nat → Nat → Bool) (n : Nat) : Nat :=
  sumTo (n - 1) (fun r => sumTo (n - 1) (fun c =>
    let k := (m r c).toNat + (m (r + 1) c).toNat + (m r (c + 1)).toNat + (m (r + 1) (c + 1)).toNat
    if k = 0 ∨ k = 4 then 3 else 0))

/-- The signature of rule 3: dark, light, dark, dark, dark, light, dark (R303). -/
def finderSignature : List Bool := [true, false, true, true, true, false, true]

/-- Rule 3: every horizontal and every vertical 7-cell window equal to the signature adds 40 (R303). -/
def penaltyRule3 (m : Nat → Nat → Bool) (n : Nat) : Nat :=
  sumTo n (fun r => sumTo (n - 6) (fun c =>
    if (List.range 7).map (fun j => m r (c + j)) = finderSignature then 40 else 0))
  + sumTo n (fun c => sumTo (n - 6) (fun r =>
    if (List.range 7).map (fun j => m (r + j) c) = finderSignature then 40 else 0))

/-- Lc, the number of light cells (R304). -/
def lightCount (m : Nat → Nat → Bool) (n : Nat) : Nat :=
  sumTo n (fun r => sumTo n (fun c => if m r c then 0 else 1))

/-- Rule 4 from the light count, in the sampled arithmetic (R304, C3). -/
def penaltyRule4 (mode : R4Mode) (lc n : Nat) : Nat :=
  match mode with
  | .exactRatio => 10 * (((100 * lc : Nat) - (50 * n ^ 2 : Nat) : Int).natAbs / (5 * n ^ 2))
  | .truncPercent => 10 * (((100 * lc / n ^ 2 : Nat) - 50 : Int).natAbs / 5)

/-- N, the matrix side (R55). -/
def side (s : State) : Nat := s.matSize.toNat

/-- N is no legal side 4 v + 17, 1 ≤ v ≤ 40 (R300). -/
def badSide (n : Nat) : Bool := !(n % 4 == 1) || decide (n < Config.sideMin) || decide (Config.sideMax < n)

/-- The four rule scores of the matrix in MAT (R301 to R304). -/
def ruleScores (s : State) : Nat × Nat × Nat × Nat :=
  (penaltyRule1 (matCell s) (side s), penaltyRule2 (matCell s) (side s), penaltyRule3 (matCell s) (side s),
   penaltyRule4 s.sampledR4 (lightCount (matCell s) (side s)) (side s))

/-- Write the scores of trial k: PEN_R1 to PEN_R4, PENk and bit k of PEN_VALID (R300, R305). -/
def recordPenalty (k : Nat) (p : Nat × Nat × Nat × Nat) (s : State) : State :=
  { s with
    penR1 := BitVec.ofNat 32 p.1
    penR2 := BitVec.ofNat 32 p.2.1
    penR3 := BitVec.ofNat 32 p.2.2.1
    penR4 := BitVec.ofNat 32 p.2.2.2
    pens := s.pens.setIfInBounds k (BitVec.ofNat 32 (p.1 + p.2.1 + p.2.2.1 + p.2.2.2))
    penValid := s.penValid ||| (1#8 <<< k) }

/-- MASK_EVAL k (R300). -/
def execMaskEval (k : Nat) (s : State) : Host.Outcome State Fault Refusal :=
  complete [(badSide (side s), configError 0x2)] (.ok (recordPenalty k (ruleScores s) s)) s

/-- The lowest k whose PENk is least among PEN0 to PEN7: the strict comparison keeps the lower index on a tie (R310). -/
def bestPattern (pens : Vector Word 8) : Nat :=
  [1, 2, 3, 4, 5, 6, 7].foldl (fun best k => if pens[k]! < pens[best]! then k else best) 0

/-- MASK_SELECT (R310): SEQUENCE 4 when a slot is unscored. -/
def execMaskSelect (s : State) : Host.Outcome State Fault Refusal :=
  complete [(!(s.penValid == 0xFF#8), sequenceError 4)]
    (.ok { s with selMask := BitVec.ofNat 3 (bestPattern s.pens), selValid := true }) s

/-- The writes of MASK_CLEAR: the penalty registers and SEL as after reset (R311). -/
def clearPenalties (s : State) : State :=
  { s with
    penValid := 0#8
    selMask := 0#3
    selValid := false
    pens := Vector.replicate 8 0#32
    penR1 := 0#32
    penR2 := 0#32
    penR3 := 0#32
    penR4 := 0#32 }

/-- MASK_CLEAR (R311). -/
def execMaskClear (s : State) : Host.Outcome State Fault Refusal := complete [] (.ok (clearPenalties s)) s

end Sys2Proof.Machine
end

