-- ==== Sys2Proof/Machine/Poly.lean ====
section
/-! DEFINITION. Polynomials over GF(2^8) and the polynomial commands (41_poly.md). A function answers `none` where its
pseudocode raises DOMAIN_ERROR on a logarithm of 0; the command that called it sets the detail value (R205). -/

namespace Sys2Proof.Machine

/-- normalize(c, shift): strip all leading zeros, then append `shift` zeros (R230). -/
def normalize (c : Poly) (shift : Nat) : Poly := c.dropWhile (fun x => x == 0#8) ++ List.replicate shift 0#8

/-- XOR the coefficients `row` into the leading coefficients of `r`. -/
def xorFront : Poly → Poly → Poly
  | r, [] => r
  | [], _ => []
  | x :: xs, y :: ys => (x ^^^ y) :: xorFront xs ys

/-- The coefficients gf_exp(gf_log(c_j) + e), one for each coefficient of c (R231, R232). -/
def scaleExp (e : Int) : Poly → Option Poly
  | [] => some []
  | c :: cs =>
    match gfLog c, scaleExp e cs with
    | some l, some row => some (gfExp ((l : Int) + e) :: row)
    | _, _ => none

/-- The loops of poly_mul before its normalize (R231), for a non-empty b: the row of a[0] is XORed at the front of the
product of the remaining coefficients, which starts one place further on. -/
def polyMulLoop : Poly → Poly → Option Poly
  | [], b => some (List.replicate (b.length - 1) 0#8)
  | x :: xs, b =>
    match gfLog x with
    | none => none
    | some l =>
      match scaleExp (l : Int) b, polyMulLoop xs b with
      | some row, some rest => some (xorFront (0#8 :: rest) row)
      | _, _ => none

/-- poly_mul(a, b) (R231): the empty product for an empty operand, else the normalised product. -/
def polyMul (a b : Poly) : Option Poly :=
  if a.isEmpty || b.isEmpty then some []
  else (polyMulLoop a b).map (fun r => normalize r 0)

/-- The loop of poly_mod (R232), at most `fuel` passes. Every pass shortens a (R233(b)), so a fuel of one more than the
length of a is never used up (log entry 10). -/
def polyModLoop : Nat → Poly → Poly → Option Poly
  | 0, a, _ => some a
  | fuel + 1, a, b =>
    if a.length < b.length then some a
    else
      match gfLog (a.headD 0#8), gfLog (b.headD 0#8) with
      | some la, some lb =>
        match scaleExp ((la : Int) - (lb : Int)) b with
        | some row => polyModLoop fuel (normalize (xorFront a row) 0) b
        | none => none
      | _, _ => none

/-- poly_mod(a, b), the remainder (R232); `none` for an empty divisor too. -/
def polyMod (a b : Poly) : Option Poly := if b.isEmpty then none else polyModLoop (a.length + 1) a b

/-- poly_gen(n), the generator polynomial of redundancy length n (R234). -/
def polyGen : Nat → Option Poly
  | 0 => some [1#8]
  | n + 1 =>
    match polyGen n with
    | some g => polyMul g [1#8, gfExp (n : Int)]
    | none => none

/-- POLY_NEW buf, shift (R240). -/
def execPolyNew (p : PolyBuf) (shift : Nat) (s : State) : Host.Outcome State Fault Refusal :=
  complete
    (readPolyChecks s p
      ++ [(decide (Config.polyMax < (normalize (readPoly s p) shift).length), capacityError 8)])
    (.ok (writePoly s p (normalize (readPoly s p) shift))) s

/-- POLY_COPY dst, src (R241). -/
def execPolyCopy (dst src : PolyBuf) (s : State) : Host.Outcome State Fault Refusal :=
  complete (readPolyChecks s src) (.ok (writePoly s dst (readPoly s src))) s

/-- The checks of POLY_MUL, in order (R242, R403). -/
def polyMulChecks (s : State) : List (Bool × CommandError) :=
  let a := readPoly s .pa
  let b := readPoly s .pb
  readPolyChecks s .pa ++ readPolyChecks s .pb ++
    [(decide (0 < polyLen s .pa) && decide (0 < polyLen s .pb)
        && decide (Config.polyMax < polyLen s .pa + polyLen s .pb - 1), capacityError 3),
     (decide (0 < polyLen s .pa) && decide (0 < polyLen s .pb) && (hasZero a || hasZero b), domainError 2)]

/-- POLY_MUL (R242): PR <- PA x PB. -/
def execPolyMul (s : State) : Host.Outcome State Fault Refusal :=
  complete (polyMulChecks s)
    (match polyMul (readPoly s .pa) (readPoly s .pb) with
      | some r => .ok (writePoly s .pr r)
      | none => .error (domainError 2)) s

/-- The checks of POLY_MOD, in order (R243, R403). -/
def polyModChecks (s : State) : List (Bool × CommandError) :=
  let a := readPoly s .pa
  let b := readPoly s .pb
  readPolyChecks s .pa ++ readPolyChecks s .pb ++
    [(polyLen s .pb == 0, domainError 4),
     (decide (polyLen s .pb ≤ polyLen s .pa) && (a.headD 0#8 == 0#8 || hasZero b), domainError 3)]

/-- POLY_MOD (R243): PR <- PA mod PB. -/
def execPolyMod (s : State) : Host.Outcome State Fault Refusal :=
  complete (polyModChecks s)
    (match polyMod (readPoly s .pa) (readPoly s .pb) with
      | some r => .ok (writePoly s .pr r)
      | none => .error (domainError 3)) s

/-- POLY_GEN n (R244). It cannot fault for n ≤ 255 (R235); the detail value of the error branch is log entry 9. -/
def execPolyGen (n : Nat) (s : State) : Host.Outcome State Fault Refusal :=
  complete [(decide (255 < n), capacityError 9)]
    (match polyGen n with
      | some r => .ok (writePoly s .pr r)
      | none => .error (domainError 2)) s

end Sys2Proof.Machine
end

