-- ==== Sys2Proof/Machine/Rs.lean ====
section
/-! DEFINITION. The error-correction encoder commands (42_rs.md). -/

namespace Sys2Proof.Machine

/-- ec_bytes(data, n): the remainder of the message polynomial by the generator, zero-filled at the front (R262, C1). -/
def ecBytes (data : List Byte) (n : Nat) : Option (List Byte) :=
  match polyGen n with
  | none => none
  | some g =>
    match polyMod (normalize data n) g with
    | some r => some (List.replicate (n - r.length) 0#8 ++ r)
    | none => none

/-- Round i of an interleave: element i of every sequence that has one, in block order (R263). -/
def interleaveRound (seqs : List (List Byte)) (i : Nat) : List Byte := seqs.filterMap (fun q => q[i]?)

/-- The greatest length of the sequences; 0 when there is none (R263). -/
def maxLength (seqs : List (List Byte)) : Nat := (seqs.map List.length).foldl max 0

/-- All rounds of an interleave, first to last (R263). -/
def interleaveRounds (seqs : List (List Byte)) : List Byte :=
  (List.range (maxLength seqs)).flatMap (interleaveRound seqs)

/-- interleave(D, E): the data rounds, then the error-correction rounds (R263). -/
def interleave (dataSeqs ecSeqs : List (List Byte)) : List Byte :=
  interleaveRounds dataSeqs ++ interleaveRounds ecSeqs

/-- The first k pad codewords, 0xEC and 0x11 in turn (R264(d)). -/
def padCodewords (k : Nat) : List Byte := (List.range k).map (fun p => if p % 2 = 0 then 0xEC#8 else 0x11#8)

/-- The stream with the terminator appended when at least 4 bits of slack remain below `capBits` (R264(b)). -/
def withTerminator (capBits : Nat) (bits : List Bool) : List Bool :=
  if 4 ≤ capBits - bits.length then bits ++ [false, false, false, false] else bits

/-- The stream filled with zero bits to a byte boundary (R264(c)). -/
def toByteBoundary (bits : List Bool) : List Bool :=
  bits ++ List.replicate ((8 - bits.length % 8) % 8) false

/-- The stream filled to `capBits` bits with pad codewords (R264(d)). -/
def withPads (capBits : Nat) (bits : List Bool) : List Bool :=
  bits ++ (padCodewords ((capBits - bits.length) / 8)).flatMap byteBits

/-- The bytes of the finalized data codewords, for a stream of at most 8 T bits (R264(b) to (d)). -/
def finalBytes (t : Nat) (bits : List Bool) : List Byte :=
  packBytes (withPads (8 * t) (toByteBoundary (withTerminator (8 * t) bits)))

/-- The writes of RS_FINALIZE after its checks (R264). -/
def finalizeBody (s : State) : State :=
  { writeBytes s .data 0 (finalBytes (totalData s) (dataStream s)) with
    dataLenBits := BitVec.ofNat 16 (8 * totalData s)
    ecv := false }

/-- The data bytes of each block, split in block order from data offset `off` (R260, R265(e)). -/
def dataSeqsFrom (s : State) (off : Nat) : List Block → List (List Byte)
  | [] => []
  | b :: rest => readBytes s .data off b.d :: dataSeqsFrom s (off + b.d) rest

/-- D_b for every block of the layout. -/
def dataSeqs (s : State) : List (List Byte) := dataSeqsFrom s 0 (blocks s)

/-- The error-correction codewords of each block with its data bytes (R265(f)). -/
def ecSeqsOf : List Block → List (List Byte) → Option (List (List Byte))
  | b :: bs, d :: ds =>
    match ecBytes d b.n, ecSeqsOf bs ds with
    | some e, some es => some (e :: es)
    | _, _ => none
  | _, _ => some []

/-- Store the error-correction codewords of block b, b + 1, … at 256 b, 256 (b + 1), … of the EC store (R109, R265). -/
def writeEcFrom (b : Nat) (s : State) : List (List Byte) → State
  | [] => s
  | e :: es => writeEcFrom (b + 1) (writeBytes s .ec (Config.ecStride * b) e) es

/-- The writes of RS_BLOCKS after its checks (R265). A DOMAIN_ERROR never comes (R269); its detail value is log entry 9. -/
def blocksBody (s : State) : Except CommandError State :=
  match ecSeqsOf (blocks s) (dataSeqs s) with
  | some es => .ok { writeEcFrom 0 s es with ecv := true }
  | none => .error (domainError 3)

/-- The stored error-correction codewords of block b, b + 1, … (R109, R267). -/
def ecSeqsFrom (s : State) (b : Nat) : List Block → List (List Byte)
  | [] => []
  | k :: rest => readBytes s .ec (Config.ecStride * b) k.n :: ecSeqsFrom s (b + 1) rest

/-- E_b for every block of the layout, from the EC store. -/
def ecSeqs (s : State) : List (List Byte) := ecSeqsFrom s 0 (blocks s)

/-- The final codeword stream of the stored data and error-correction codewords (R267). -/
def codewordStream (s : State) : List Byte := interleave (dataSeqs s) (ecSeqs s)

/-- The writes of RS_INTERLEAVE after its checks (R267). -/
def interleaveBody (s : State) : State :=
  { writeBytes s .cw 0 (codewordStream s) with cwLen := BitVec.ofNat 16 (codewordStream s).length }

/-- The condition of CAPACITY 4: more bits than buffer DATA holds (R264). -/
def streamTooLong (s : State) : Bool := decide (8 * Config.dataBufBytes < streamBits s)

/-- The condition of CAPACITY 6: more codewords than buffer CW holds (R267). -/
def streamOverCw (s : State) : Bool := decide (Config.cwBufBytes < totalCw s)

/-- The condition of ENCODING_OVERFLOW: more bits than the layout's data codewords hold (R264(a)). -/
def streamOverflows (s : State) : Bool := decide (8 * totalData s < streamBits s)

/-- The condition of SEQUENCE 1 and 3: the data is not finalized (R265, R267). -/
def notFinalized (s : State) : Bool := !(streamBits s == 8 * totalData s)

/-- RS_FINALIZE (R264). -/
def execRsFinalize (s : State) : Host.Outcome State Fault Refusal :=
  complete
    (layoutChecks s ++
      [(streamTooLong s, capacityError 4),
       (streamOverflows s, encodingOverflow (streamBits s))])
    (.ok (finalizeBody s)) s

/-- RS_BLOCKS (R265). -/
def execRsBlocks (s : State) : Host.Outcome State Fault Refusal :=
  complete (layoutChecks s ++ [(notFinalized s, sequenceError 1)]) (blocksBody s) s

/-- RS_INTERLEAVE (R267). -/
def execRsInterleave (s : State) : Host.Outcome State Fault Refusal :=
  complete
    (layoutChecks s ++
      [(streamOverCw s, capacityError 6),
       (notFinalized s, sequenceError 3),
       (!s.ecv, sequenceError 2)])
    (.ok (interleaveBody s)) s

/-- RS_ENCODE (R268): every check of the three stages, then the three bodies in turn. -/
def execRsEncode (s : State) : Host.Outcome State Fault Refusal :=
  complete
    (layoutChecks s ++
      [(streamTooLong s, capacityError 4),
       (streamOverCw s, capacityError 6),
       (streamOverflows s, encodingOverflow (streamBits s))])
    (match blocksBody (finalizeBody s) with
      | .ok t => .ok (interleaveBody t)
      | .error e => .error e) s

end Sys2Proof.Machine
end

