-- ==== Sys2Proof/Machine/System.lean ====
section
/-! DEFINITION. The system command (44_system.md): NOP. -/

namespace Sys2Proof.Machine

/-- NOP (R330): nothing beyond issue and completion. -/
def execNop (s : State) : Host.Outcome State Fault Refusal := complete [] (.ok s) s

end Sys2Proof.Machine
end

