-- ==== Sys2Proof/Machine/Dispatch.lean ====
section
/-! DEFINITION. The completion of each command (44_system.md R332), one arm per constructor of Instr. -/

namespace Sys2Proof.Machine

def exec (i : Instr) (s : State) : Host.Outcome State Fault Refusal :=
  match i with
  | .nop => Sys2Proof.Machine.execNop s
  | .gfExp n => Sys2Proof.Machine.execGfExp n s
  | .gfLog x => Sys2Proof.Machine.execGfLog x s
  | .gfMul a b => Sys2Proof.Machine.execGfMul a b s
  | .polyNew buf shift => Sys2Proof.Machine.execPolyNew buf shift s
  | .polyCopy dst src => Sys2Proof.Machine.execPolyCopy dst src s
  | .polyMul => Sys2Proof.Machine.execPolyMul s
  | .polyMod => Sys2Proof.Machine.execPolyMod s
  | .polyGen n => Sys2Proof.Machine.execPolyGen n s
  | .rsFinalize => Sys2Proof.Machine.execRsFinalize s
  | .rsBlocks => Sys2Proof.Machine.execRsBlocks s
  | .rsInterleave => Sys2Proof.Machine.execRsInterleave s
  | .rsEncode => Sys2Proof.Machine.execRsEncode s
  | .maskEval k => Sys2Proof.Machine.execMaskEval k s
  | .maskSelect => Sys2Proof.Machine.execMaskSelect s
  | .maskClear => Sys2Proof.Machine.execMaskClear s

end Sys2Proof.Machine
end

