-- ==== Sys2Proof/Machine/Host.lean ====
section
/-! DEFINITION. The register window: the register map (10_state.md), which accesses are performed (20_memory.md R102, R107,
R111, R113; 60_exceptions.md R411), what a performed access does, the host's inputs, and whose turn it is. -/

namespace Sys2Proof.Machine

/-- The registers of the map (10_state.md section 2). -/
inductive Reg where
  | id | status | ctrl | cmd | errCause | errInfo | aerrCause | aerrAddr | result
  | bufAddr | bufData | paLen | pbLen | prLen | dataLenBits | cwLen
  | group (k : Fin 4)
  | totalData | totalCw | nBlocks
  | matSize | matAddr | matData
  | penValid | sel
  | penR (k : Fin 4)
  | pen (k : Fin 8)
  deriving DecidableEq, Repr

/-- Read or write. -/
inductive Dir where
  | read
  | write
  deriving DecidableEq, Repr

/-- The offset of a register (10_state.md section 2). -/
def regOffset : Reg → Nat
  | .id => 0x000
  | .status => 0x004
  | .ctrl => 0x008
  | .cmd => 0x00C
  | .errCause => 0x010
  | .errInfo => 0x014
  | .aerrCause => 0x018
  | .aerrAddr => 0x01C
  | .result => 0x020
  | .bufAddr => 0x024
  | .bufData => 0x028
  | .paLen => 0x02C
  | .pbLen => 0x030
  | .prLen => 0x034
  | .dataLenBits => 0x038
  | .cwLen => 0x03C
  | .group k => 0x040 + 4 * k.val
  | .totalData => 0x050
  | .totalCw => 0x054
  | .nBlocks => 0x058
  | .matSize => 0x05C
  | .matAddr => 0x060
  | .matData => 0x064
  | .penValid => 0x068
  | .sel => 0x06C
  | .penR k => 0x070 + 4 * k.val
  | .pen k => 0x080 + 4 * k.val

/-- The registers from 0x000 to 0x03C: control, results, lengths. -/
def controlRegs : List Reg :=
  [.id, .status, .ctrl, .cmd, .errCause, .errInfo, .aerrCause, .aerrAddr, .result,
   .bufAddr, .bufData, .paLen, .pbLen, .prLen, .dataLenBits, .cwLen]

/-- The registers from 0x040 to 0x06C: layout, matrix, selection. -/
def layoutRegs : List Reg :=
  [.group 0, .group 1, .group 2, .group 3, .totalData, .totalCw, .nBlocks,
   .matSize, .matAddr, .matData, .penValid, .sel]

/-- The registers from 0x070 to 0x09C: penalties. -/
def penaltyRegs : List Reg :=
  [.penR 0, .penR 1, .penR 2, .penR 3,
   .pen 0, .pen 1, .pen 2, .pen 3, .pen 4, .pen 5, .pen 6, .pen 7]

/-- Every register of the map, in the order of the offsets. -/
def allRegs : List Reg := controlRegs ++ layoutRegs ++ penaltyRegs

/-- The register at an offset; none at an unmapped one (R62). -/
def regAt (offset : BitVec 12) : Option Reg := allRegs.find? (fun r => regOffset r == offset.toNat)

/-- The registers marked RO, whose writes are READ_ONLY access errors (R62). -/
def regReadOnly : Reg → Bool
  | .id | .errCause | .errInfo | .aerrCause | .aerrAddr | .result | .prLen | .cwLen
  | .totalData | .totalCw | .nBlocks | .penValid | .sel | .penR _ | .pen _ => true
  | .status | .ctrl | .cmd | .bufAddr | .bufData | .paLen | .pbLen | .dataLenBits | .group _
  | .matSize | .matAddr | .matData => false

/-- The accesses performed while BUSY = 1 (R113). -/
def allowedWhileBusy : Dir → Reg → Bool
  | .read, r => r == .id || r == .status || r == .ctrl || r == .cmd
  | .write, r => r == .status || r == .ctrl

/-- The checks of a BUF_DATA access, in order (R102). -/
def bufPortCheck (s : State) (dir : Dir) : Option AerrCause :=
  match bufOfSel s.bufSel with
  | none => some .unmapped
  | some b =>
    if b.cap ≤ s.bufIndex.toNat then some .bounds
    else if dir = .write ∧ b.hostReadOnly = true then some .readOnly
    else none

/-- Nacc = min(MAT_SIZE, 177) (R107). -/
def matBound (s : State) : Nat := min s.matSize.toNat Config.sideMax

/-- W = ceil(Nacc / 32) (R107). -/
def matRowWords (s : State) : Nat := (matBound s + 31) / 32

/-- The check of a MAT_DATA access (R107). -/
def matPortCheck (s : State) : Option AerrCause :=
  if matBound s ≤ s.matRow.toNat ∨ matRowWords s ≤ s.matWord.toNat then some .bounds else none

/-- The register's own checks (R411, step 5). -/
def portCheck (s : State) (dir : Dir) : Reg → Option AerrCause
  | .bufData => bufPortCheck s dir
  | .matData => matPortCheck s
  | _ => none

/-- The cause an access reports, or `none` where it is performed: the checks of R411 in their order. -/
def accessCheck (s : State) (dir : Dir) (width : Nat) (offset : BitVec 12) : Option AerrCause :=
  if width ≠ 32 ∨ offset.toNat % 4 ≠ 0 then some .size
  else
    match regAt offset with
    | none => some .unmapped
    | some r =>
      if s.busy = true ∧ allowedWhileBusy dir r = false then some .busy
      else if dir = .write ∧ regReadOnly r = true then some .readOnly
      else portCheck s dir r

/-- The byte buffer BUF_ADDR selects, where the port check has found one (R102). -/
def selectedBuf (s : State) : Buf := (bufOfSel s.bufSel).getD .data

/-- The value a performed read returns (10_state.md R32 to R61). -/
def regValue (s : State) : Reg → Word
  | .id => Config.idValue
  | .status => statusWord s
  | .ctrl => ctrlWord s
  | .cmd => s.lastCmd
  | .errCause => errCauseWord s
  | .errInfo => s.errInfo
  | .aerrCause => aerrCauseWord s
  | .aerrAddr => aerrAddrWord s
  | .result => s.result
  | .bufAddr => bufAddrWord s
  | .bufData => (readByte s (selectedBuf s) s.bufIndex.toNat).setWidth 32
  | .paLen => s.paLen.setWidth 32
  | .pbLen => s.pbLen.setWidth 32
  | .prLen => s.prLen.setWidth 32
  | .dataLenBits => s.dataLenBits.setWidth 32
  | .cwLen => s.cwLen.setWidth 32
  | .group k => s.groups[k].word
  | .totalData => BitVec.ofNat 32 (totalData s)
  | .totalCw => BitVec.ofNat 32 (totalCw s)
  | .nBlocks => BitVec.ofNat 32 (nBlocks s)
  | .matSize => s.matSize.setWidth 32
  | .matAddr => matAddrWord s
  | .matData => readMatWord s s.matRow.toNat s.matWord.toNat
  | .penValid => s.penValid.setWidth 32
  | .sel => selWord s
  | .penR k => if k = 0 then s.penR1 else if k = 1 then s.penR2 else if k = 2 then s.penR3 else s.penR4
  | .pen k => s.pens[k]

/-- INDEX + 1 mod 2^16, SEL unchanged: after every performed BUF_DATA access (R104). -/
def advanceBuf (s : State) : State := { s with bufIndex := s.bufIndex + 1#16 }

/-- The row-major advance of MAT_ADDR after every performed MAT_DATA access (R108). -/
def advanceMat (s : State) : State :=
  if s.matWord.toNat + 1 < matRowWords s then { s with matWord := s.matWord + 1#3 }
  else { s with matWord := 0#3, matRow := s.matRow + 1#8 }

/-- What a performed read does to the state: the two ports advance, every other read has no side effect (R112). -/
def afterRead (s : State) : Reg → State
  | .bufData => advanceBuf s
  | .matData => advanceMat s
  | _ => s

/-- What a performed write does (10_state.md R34 to R57). The registers marked RO have no performed write. -/
def afterWrite (s : State) (v : Word) : Reg → State
  | .status => writeStatus v s
  | .ctrl => if v.getLsbD 31 then deviceReset s else writeCtrlFields v s
  | .cmd => issue v s
  | .bufAddr => { s with bufIndex := v.extractLsb' 0 16, bufSel := v.extractLsb' 16 4 }
  | .bufData => advanceBuf (writeByte s (selectedBuf s) s.bufIndex.toNat (v.extractLsb' 0 8))
  | .paLen => { s with paLen := v.extractLsb' 0 9 }
  | .pbLen => { s with pbLen := v.extractLsb' 0 9 }
  | .dataLenBits => { s with dataLenBits := v.extractLsb' 0 16, ecv := false }
  | .group k => { s with groups := s.groups.set k (Group.ofWord v), ecv := false }
  | .matSize => { s with matSize := v.extractLsb' 0 8 }
  | .matAddr => { s with matRow := v.extractLsb' 0 8, matWord := v.extractLsb' 8 3 }
  | .matData => advanceMat (writeMatWord s s.matRow.toNat s.matWord.toNat v)
  | .id | .errCause | .errInfo | .aerrCause | .aerrAddr | .result | .prLen | .cwLen
  | .totalData | .totalCw | .nBlocks | .penValid | .sel | .penR _ | .pen _ => s

/-- A host read: the state after it and the word it returns. An access error returns 0 (R410). -/
def hostRead (s : State) (width : Nat) (offset : BitVec 12) : State × Word :=
  match accessCheck s .read width offset, regAt offset with
  | some cause, _ => (accessError cause offset s, 0#32)
  | none, some r => (afterRead s r, regValue s r)
  | none, none => (s, 0#32)

/-- A host write: the state after it. An access error changes nothing else (R410). -/
def hostWrite (s : State) (width : Nat) (offset : BitVec 12) (v : Word) : State :=
  match accessCheck s .write width offset, regAt offset with
  | some cause, _ => accessError cause offset s
  | none, some r => afterWrite s v r
  | none, none => s

/-- The register offset of a bus address, where the address lies in the device's window (R100, R111, R114). An access
outside the window does not reach the device. -/
def busOffset (addr : Nat) : Option (BitVec 12) :=
  if Config.pBase ≤ addr ∧ addr < Config.pBase + Config.windowBytes then some (BitVec.ofNat 12 (addr - Config.pBase))
  else none

/-- Note the word a host read returned. -/
def noteReply (r : State × Word) : State := { r.1 with replies := r.2 :: r.1.replies }

/-- One move of the outside: its oldest pending input, if it has one (R116(a)). A WAIT stays pending until its read of STATUS
returns bit 0 = 0 (R155). -/
def hostTurn (s : State) : State :=
  match s.host with
  | [] => s
  | .read width offset :: rest => noteReply (hostRead { s with host := rest } width offset)
  | .write width offset v :: rest => hostWrite { s with host := rest } width offset v
  | .waitIdle :: rest =>
    noteReply (hostRead (if (statusWord s).getLsbD 0 then s else { s with host := rest }) 32 0x004#12)
  | .resetInput :: rest => deviceReset { s with host := rest }

/-- Whose move it is: as `turns` says; with no turn listed, the engine's while a command is in flight, else the host's
(R334, R412; log entry 2). -/
def nextAgent (s : State) : Agent :=
  match s.turns with
  | a :: _ => a
  | [] => if s.busy then .engine else .host

/-- The turn of this step is used up. -/
def takeTurn (s : State) : State := { s with turns := s.turns.tail }

/-- The host's pseudo-instructions (R155). A host program is a list of them. -/
inductive Pseudo where
  | wr (r : Reg) (v : Word)
  | rd (r : Reg)
  | issueCmd (c : Instr)
  | wait
  | run (c : Instr)
  | wrBuf (b : Buf) (index : BitVec 16) (bytes : List Byte)
  | rdBuf (b : Buf) (index : BitVec 16) (count : Nat)
  | wrMat (row : BitVec 8) (word : BitVec 3) (words : List Word)
  | check
  deriving DecidableEq, Repr

/-- WR REG, v: a 32-bit write at the register's offset (R155). -/
def wrInput (r : Reg) (v : Word) : HostInput := .write 32 (BitVec.ofNat 12 (regOffset r)) v

/-- RD REG: a 32-bit read at the register's offset (R155). -/
def rdInput (r : Reg) : HostInput := .read 32 (BitVec.ofNat 12 (regOffset r))

/-- The word BUF_ADDR takes to point at index `index` of a buffer (R43, R155). -/
def bufPointer (b : Buf) (index : BitVec 16) : Word := 0#12 ++ BitVec.ofNat 4 b.sel ++ index

/-- The word MAT_ADDR takes to point at a word of a row (R56, R155). -/
def matPointer (row : BitVec 8) (word : BitVec 3) : Word := 0#21 ++ word ++ row

/-- The host accesses a pseudo-instruction expands into (R155). CHECK is an assertion of the host and makes no access. -/
def expandPseudo : Pseudo → List HostInput
  | .wr r v => [wrInput r v]
  | .rd r => [rdInput r]
  | .issueCmd c => [wrInput .cmd (encode c)]
  | .wait => [.waitIdle]
  | .run c => [wrInput .cmd (encode c), .waitIdle]
  | .wrBuf b index bytes =>
    wrInput .bufAddr (bufPointer b index) :: bytes.map (fun v => wrInput .bufData (v.setWidth 32))
  | .rdBuf b index count => wrInput .bufAddr (bufPointer b index) :: List.replicate count (rdInput .bufData)
  | .wrMat row word words => wrInput .matAddr (matPointer row word) :: words.map (wrInput .matData)
  | .check => []

end Sys2Proof.Machine
end

