-- ==== Sys2Proof/Machine/Step.lean ====
section
/-! DEFINITION. One step of RSM: a move of the engine or a move of the host (00_scope.md R6). -/

namespace Sys2Proof.Machine

/-- The engine's move: complete the command in flight (R332); a word that spells no command completes with ILLEGAL_COMMAND
(R151). With no command in flight the engine is idle and every register keeps its value (R435). -/
def engineTurn (s : State) : Host.Outcome State Fault Refusal :=
  if s.busy then
    match decode s.lastCmd with
    | .ok i => exec i s
    | .error _ => .next (commandError (illegalCommand s.lastCmd) s)
  else .next s

/-- One step: the agent whose move it is moves, and its turn is used up (R333, R334, R412). -/
def step (s : State) : Host.Outcome State Fault Refusal :=
  match nextAgent s with
  | .engine => engineTurn (takeTurn s)
  | .host => .next (hostTurn (takeTurn s))

/-- `s` with the command word `w` (its `nbits` low bits) in flight, so that the next step completes exactly it. RSM fetches
nothing (R31): a command runs because the host wrote its word to CMD, so this is the issue of that write (R331), with no
turn listed before the engine's. Log entry 1. -/
def State.withFetchWord (s : State) (nbits w : Nat) : State :=
  { issue (BitVec.ofNat 32 (w % 2 ^ nbits)) s with turns := [] }

end Sys2Proof.Machine
end

