-- ==== Sys2Proof/Safety.lean ====
section
/-! DEFINITION. The terms claims use: what a safe run is (70_reset_and_hazards.md R469), the invariants of the machine, and
plain reference definitions (the field product, polynomial coefficients, the layout faults) written from the spec's words
and not from the machine's operations. -/

namespace Sys2Proof.Machine

/-! ### Runs -/

/-- The end of a run: the host has made its last access and BUSY = 0 (R469). DESIGN CHOICE (log entry 16): R469 speaks of the
host's accesses alone; an assertion of the reset input that is still pending in `host` keeps the run open too. -/
def runEnded (s : State) : Bool := s.host.isEmpty && !s.busy

/-- Fault-free so far: no command completed with ERR = 1 and no access error occurred (R469). -/
def faultFree (s : State) : Bool := s.cmdErrors.isEmpty && s.accessErrors.isEmpty

/-! ### Invariants -/

/-- STATUS is consistent: DONE and ERR are never both 1 (R33), and neither is 1 while a command is in flight (R331). -/
abbrev flagsOk (s : State) : Prop :=
  ¬(s.done = true ∧ s.err = true) ∧ (s.busy = true → s.done = false ∧ s.err = false)

/-- A byte buffer is in canonical form and lists nothing at or above its capacity (R101). -/
abbrev bufOk (s : State) (b : Buf) : Prop := Memory.wf (bufMem s b) = true ∧ Memory.below b.cap (bufMem s b) = true

/-- Every memory is in canonical form and lists nothing at or above its capacity (R101, R106). -/
abbrev memoryOk (s : State) : Prop :=
  bufOk s .data ∧ bufOk s .pa ∧ bufOk s .pb ∧ bufOk s .pr ∧ bufOk s .cw ∧ bufOk s .ec
  ∧ Memory.wf s.mat = true ∧ Memory.below (Config.sideMax * Config.matWords) s.mat = true

/-- The length registers the device writes are within their buffers (R47, R49). -/
abbrev lengthsOk (s : State) : Prop := s.prLen.toNat ≤ Config.polyMax ∧ s.cwLen.toNat ≤ Config.cwBufBytes

/-- A valid selection stands only while all eight slots are scored, and SEL.MASK is 0 without one (R59, R310, R311). -/
abbrev selectionOk (s : State) : Prop :=
  (s.selValid = true → s.penValid = 0xFF#8) ∧ (s.selValid = false → s.selMask = 0#3)

/-- The sticky records hold an error whenever a flag shows one (R469). -/
abbrev recordOk (s : State) : Prop :=
  (s.err = true → s.cmdErrors ≠ []) ∧ (s.aerr = true → s.accessErrors ≠ [])

/-! ### Reference definitions for the field and for polynomials -/

/-- x · a in GF(2)[x] modulo x^8 + x^4 + x^3 + x^2 + 1 = 0x11D (R201). -/
def timesAlpha (a : Byte) : Byte := if a.getLsbD 7 then (a <<< 1) ^^^ 0x1D#8 else a <<< 1

/-- The carry-less product of two bytes reduced modulo 0x11D (R201), bit by bit of b from the top. -/
def fieldMul (a b : Byte) : Byte :=
  [7, 6, 5, 4, 3, 2, 1, 0].foldl (fun acc i => timesAlpha acc ^^^ (if b.getLsbD i then a else 0#8)) 0#8

/-- The exclusive OR, which is the field sum (R12), of a list of bytes. -/
def xorSum (l : List Byte) : Byte := l.foldr (fun x acc => x ^^^ acc) 0#8

/-- Coefficient k, counted from the highest degree, of the product of two coefficient sequences: the sum of a[i] b[k - i]. -/
def productCoeff (a b : Poly) (k : Nat) : Byte :=
  xorSum ((List.range (k + 1)).map (fun i => fieldMul (a.getD i 0#8) (b.getD (k - i) 0#8)))

/-- The value of a polynomial at x, highest-degree coefficient first (R10). -/
def evalPoly (c : Poly) (x : Byte) : Byte := c.foldl (fun acc k => fieldMul acc x ^^^ k) 0#8

/-! ### What a command does to the state, in a claim's words -/

/-- The state after a command error: the report of R402, the model's record of it, and nothing else. -/
def afterError (c : ErrCause) (info : Nat) (s : State) : State :=
  { s with
    err := true
    errCause := c
    errInfo := BitVec.ofNat 32 info
    busy := false
    cmdErrors := ⟨c, BitVec.ofNat 32 info⟩ :: s.cmdErrors }

/-- `t` is `s` after a completion that wrote the polynomial r into buffer p: its length register, its bytes, DONE and BUSY,
and nothing else. -/
def polyWritten (p : PolyBuf) (r : Poly) (s t : State) : Prop :=
  polyLen t p = r.length
  ∧ (∀ q, q ≠ p → polyLen t q = polyLen s q)
  ∧ (∀ b i, readByte t b i = if b = polyMem p ∧ i < r.length then r.getD i 0#8 else readByte s b i)
  ∧ t.done = true ∧ t.busy = false
  ∧ { t with
      pa := s.pa, pb := s.pb, pr := s.pr, paLen := s.paLen, pbLen := s.pbLen, prLen := s.prLen
      done := s.done, busy := s.busy } = s

/-- The first layout fault, as R261 lists them, with its detail value. -/
def layoutFault (s : State) : Option (ErrCause × Nat) :=
  if nBlocks s = 0 then some (.configError, 0x1)
  else
    match s.groups.toList.findIdx? (fun g => decide (0 < g.count.toNat ∧ g.total.toNat < g.data.toNat)) with
    | some k => some (.configError, 0x10 + k)
    | none =>
      if 128 < nBlocks s then some (.capacity, 7)
      else if 4096 < totalData s then some (.capacity, 5)
      else none

/-- ECV = 1 only over a layout without a fault, with the data finalized (R266). -/
abbrev ecvOk (s : State) : Prop :=
  s.ecv = true → layoutFault s = none ∧ s.dataLenBits.toNat = 8 * totalData s

/-- off_b, the data offset of block b (R260). -/
def dataOffset (s : State) (b : Nat) : Nat := (((blocks s).take b).map Block.d).sum

/-- D_b, the data bytes of block b in Buf(DATA) (R265); empty where there is no block b. -/
def blockData (s : State) (b : Nat) : List Byte :=
  match (blocks s)[b]? with
  | some k => readBytes s .data (dataOffset s b) k.d
  | none => []

/-- E_b, the bytes of block b in the EC store (R109); empty where there is no block b. -/
def blockEc (s : State) (b : Nat) : List Byte :=
  match (blocks s)[b]? with
  | some k => readBytes s .ec (256 * b) k.n
  | none => []

/-- Bit k of the finalized data codewords of a layout of T data codewords, from the stream of L bits in DATA: the stream,
then zero bits (terminator and byte fill) up to bit P, then 0xEC and 0x11 in turn (R264). -/
def finalizedBit (s : State) (k : Nat) : Bool :=
  let l := s.dataLenBits.toNat
  let p := 8 * ((l + (if 4 ≤ 8 * totalData s - l then 4 else 0) + 7) / 8)
  if k < l then dataBit s k
  else if k < p then false
  else (if ((k - p) / 8) % 2 = 0 then 0xEC#8 else 0x11#8).getLsbD (7 - k % 8)

/-- Where element i of sequence b stands among the rounds of an interleave (R263): after the rounds before round i, and in
round i after the sequences before b that have an element i. -/
def roundPosition (seqs : List (List Byte)) (i b : Nat) : Nat :=
  ((List.range i).map (fun r => (seqs.filter (fun q => decide (r < q.length))).length)).sum
    + ((seqs.take b).filter (fun q => decide (i < q.length))).length

/-- What the engine and its results depend on and are: the state without the flags, enables and records that the accesses
allowed while BUSY = 1 may write (R113, R333). -/
def engineView (s : State) : State :=
  { s with
    done := false, err := false, aerr := false, ieDone := false, ieErr := false, ieAerr := false
    r4mode := .exactRatio, aerrCause := .noError, aerrAddr := 0#12
    host := [], turns := [], replies := [], accessErrors := [] }

end Sys2Proof.Machine
end

