-- ==== Sys2Proof/Certificates/Slice0/Obligations.lean ====
section
/-! DEFINITION. The statements about RSM, for the provers. Each docstring names the rule of spec/ it formalises. -/

open Sys2Proof Sys2Proof.Machine

/-! ### Encoding -/

/-- R150, R154: for every well-formed command, decoding its word gives the command back, every operand at every value its
field admits. -/
def Obligations.DecodeEncodeGivesTheCommandBack : Prop :=
  ∀ i : Instr, i.wf = true → decode (encode i) = .ok i

/-- R140, R154: each word has at most one meaning: a word that decodes is the word of the command it decodes to, and that
command is well-formed. -/
def Obligations.EncodeOfADecodedWordIsTheWord : Prop :=
  ∀ (w : Word) (i : Instr), decode w = .ok i → encode i = w ∧ i.wf = true

/-- R141 to R150: a word spells a command exactly when (w & mask) = match for a row and the buffer-code conditions of the row
hold; the row's command is the row's mnemonic with its fields. The masks and matches are R150's, written out. -/
def Obligations.DecodeAcceptsExactlyTheOpcodeMap : Prop :=
  ∀ w : Word,
    (decode w = .ok .nop ↔ w = 0x00000000#32)
    ∧ (decode w = .ok (.gfExp (w.extractLsb' 0 16).toInt) ↔ w &&& 0xFFFF0000#32 = 0x01000000#32)
    ∧ (decode w = .ok (.gfLog (w.extractLsb' 0 8)) ↔ w &&& 0xFFFFFF00#32 = 0x02000000#32)
    ∧ (decode w = .ok (.gfMul (w.extractLsb' 8 8) (w.extractLsb' 0 8)) ↔ w &&& 0xFFFF0000#32 = 0x03000000#32)
    ∧ (∀ p : PolyBuf, decode w = .ok (.polyNew p (w.extractLsb' 0 9).toNat) ↔
        w &&& 0xFFFCFE00#32 = 0x10000000#32 ∧ w.extractLsb' 16 2 = (match p with | .pa => 0#2 | .pb => 1#2 | .pr => 2#2))
    ∧ (∀ dst src : PolyBuf, decode w = .ok (.polyCopy dst src) ↔
        w &&& 0xFFF0FFFF#32 = 0x11000000#32
        ∧ w.extractLsb' 16 2 = (match dst with | .pa => 0#2 | .pb => 1#2 | .pr => 2#2)
        ∧ w.extractLsb' 18 2 = (match src with | .pa => 0#2 | .pb => 1#2 | .pr => 2#2))
    ∧ (decode w = .ok .polyMul ↔ w = 0x12000000#32)
    ∧ (decode w = .ok .polyMod ↔ w = 0x13000000#32)
    ∧ (decode w = .ok (.polyGen (w.extractLsb' 0 9).toNat) ↔ w &&& 0xFFFFFE00#32 = 0x14000000#32)
    ∧ (decode w = .ok .rsFinalize ↔ w = 0x20000000#32)
    ∧ (decode w = .ok .rsBlocks ↔ w = 0x21000000#32)
    ∧ (decode w = .ok .rsInterleave ↔ w = 0x22000000#32)
    ∧ (decode w = .ok .rsEncode ↔ w = 0x23000000#32)
    ∧ (decode w = .ok (.maskEval (w.extractLsb' 0 3).toNat) ↔ w &&& 0xFFFFFFF8#32 = 0x30000000#32)
    ∧ (decode w = .ok .maskSelect ↔ w = 0x31000000#32)
    ∧ (decode w = .ok .maskClear ↔ w = 0x32000000#32)
    ∧ ((∃ i, decode w = .ok i) ↔
      (w = 0x00000000#32
      ∨ w &&& 0xFFFF0000#32 = 0x01000000#32
      ∨ w &&& 0xFFFFFF00#32 = 0x02000000#32
      ∨ w &&& 0xFFFF0000#32 = 0x03000000#32
      ∨ (w &&& 0xFFFCFE00#32 = 0x10000000#32 ∧ w.extractLsb' 16 2 ≠ 3#2)
      ∨ (w &&& 0xFFF0FFFF#32 = 0x11000000#32 ∧ w.extractLsb' 18 2 ≠ 3#2 ∧ w.extractLsb' 16 2 ≠ 3#2)
      ∨ w = 0x12000000#32
      ∨ w = 0x13000000#32
      ∨ w &&& 0xFFFFFE00#32 = 0x14000000#32
      ∨ w = 0x20000000#32
      ∨ w = 0x21000000#32
      ∨ w = 0x22000000#32
      ∨ w = 0x23000000#32
      ∨ w &&& 0xFFFFFFF8#32 = 0x30000000#32
      ∨ w = 0x31000000#32
      ∨ w = 0x32000000#32))

/-- R156: the encoding examples, the legal and the illegal ones. -/
def Obligations.EncodingExamplesDecode : Prop :=
  decode 0x0100FFFF#32 = .ok (.gfExp (-1))
  ∧ decode 0x030053CA#32 = .ok (.gfMul 0x53#8 0xCA#8)
  ∧ decode 0x1000000A#32 = .ok (.polyNew .pa 10)
  ∧ decode 0x10020000#32 = .ok (.polyNew .pr 0)
  ∧ decode 0x11090000#32 = .ok (.polyCopy .pb .pr)
  ∧ decode 0x1400000A#32 = .ok (.polyGen 10)
  ∧ decode 0x30000007#32 = .ok (.maskEval 7)
  ∧ decode 0x04000000#32 = .error .reservedOpcode
  ∧ decode 0x00000001#32 = .error .mustBeZero
  ∧ decode 0x10030000#32 = .error .reservedBuffer
  ∧ decode 0x110C0000#32 = .error .reservedBuffer

/-! ### Issue, completion and the step -/

/-- R332, R116(a), R155: what a step does. On the engine's turn, a command in flight whose word decodes to i is completed by
the meaning of i; on the host's turn, the host moves; around either, the step uses up the turn and nothing else. Whose turn
it is says the model's list of turns (log entry 2). A move of the host performs its oldest pending input (log entry 3) and
takes it off the queue: a read, whose word is noted; a write; a WAIT, which reads STATUS and stays pending while BUSY = 1;
the reset input, which leaves what is outside the device and the records as they were and draws anew (log entries 4, 7, 14).
With nothing pending it changes nothing. -/
def Obligations.StepRunsTheDecodedCommand : Prop :=
  (∀ (s : State) (i : Instr), nextAgent s = .engine → s.busy = true → decode s.lastCmd = .ok i →
    step s = exec i { s with turns := s.turns.tail })
  ∧ (∀ s : State, nextAgent s = .host → step s = .next (hostTurn { s with turns := s.turns.tail }))
  ∧ (∀ (s : State) (a : Agent) (rest : List Agent), s.turns = a :: rest → nextAgent s = a)
  ∧ (∀ s : State, s.turns = [] → nextAgent s = if s.busy then .engine else .host)
  ∧ (∀ s : State, s.host = [] → hostTurn s = s)
  ∧ (∀ (s : State) (width : Nat) (o : BitVec 12) (rest : List HostInput), s.host = .read width o :: rest →
      hostTurn s = { (hostRead { s with host := rest } width o).1 with
        replies := (hostRead { s with host := rest } width o).2 :: s.replies })
  ∧ (∀ (s : State) (width : Nat) (o : BitVec 12) (v : Word) (rest : List HostInput), s.host = .write width o v :: rest →
      hostTurn s = hostWrite { s with host := rest } width o v)
  ∧ (∀ (s : State) (rest : List HostInput), s.host = .waitIdle :: rest →
      hostTurn s = { s with
        host := if s.busy then .waitIdle :: rest else rest
        replies := (hostRead s 32 0x004#12).2 :: s.replies })
  ∧ (∀ (s : State) (rest : List HostInput), s.host = .resetInput :: rest →
      hostTurn s = { State.reset with
        draws := s.draws + 1, host := rest, turns := s.turns, replies := s.replies
        cmdErrors := s.cmdErrors, accessErrors := s.accessErrors })

/-- R151, R402: on the engine's turn, a word in flight that spells no command completes with ILLEGAL_COMMAND, ERR_INFO is the
word, and nothing else changes (the turn is used up and the model's record of errors grows: log entries 2, 7). -/
def Obligations.StepReportsAnIllegalWord : Prop :=
  ∀ (s : State) (e : DecodeError), nextAgent s = .engine → s.busy = true → decode s.lastCmd = .error e →
    step s = .next { s with
      turns := s.turns.tail, err := true, errCause := .illegalCommand, errInfo := s.lastCmd, busy := false
      cmdErrors := ⟨.illegalCommand, s.lastCmd⟩ :: s.cmdErrors }

/-- R435: when BUSY = 0 the engine is idle: its turn keeps every register and memory. -/
def Obligations.IdleEngineKeepsEverything : Prop :=
  ∀ s : State, s.busy = false → nextAgent s = .engine → step s = .next { s with turns := s.turns.tail }

/-- R404, R421: nothing stops RSM: every step, and the meaning of every command in every state, answers a next state. -/
def Obligations.NothingStopsTheMachine : Prop :=
  (∀ s : State, ∃ t, step s = .next t) ∧ (∀ (i : Instr) (s : State), ∃ t, exec i s = .next t)

/-- R334: a command in flight is off within finitely many steps: at most one more than the turns listed before the
engine's (the turns are the model's, log entry 2). -/
def Obligations.ACommandInFlightEnds : Prop :=
  ∀ s : State, s.busy = true →
    ∃ k t, k ≤ s.turns.length + 1 ∧ Host.Core.run Sys2Proof.core k s = .next t ∧ t.busy = false

/-- R331: a write of w to CMD while BUSY = 0 does exactly the issue of w; a MASK_EVAL samples CTRL.R4MODE. -/
def Obligations.WritingCmdIssuesTheCommand : Prop :=
  ∀ (s : State) (w : Word), s.busy = false →
    hostWrite s 32 0x00C#12 w = { s with
      lastCmd := w, busy := true, done := false, err := false, errCause := .noError, errInfo := 0#32
      sampledR4 := match decode w with
        | .ok (.maskEval _) => s.r4mode
        | _ => s.sampledR4 }

/-- R330: a NOP issued while BUSY = 0 and completed leaves LAST_CMD = 0 and DONE = 1, with the error report of the previous
command cleared by its issue, and nothing else. Any other word with op 0x00 spells no command. -/
def Obligations.NopOnlyIssuesAndCompletes : Prop :=
  decode 0x00000000#32 = .ok .nop
  ∧ (∀ w : Word, w.extractLsb' 24 8 = 0x00#8 → w ≠ 0x00000000#32 → decode w = .error .mustBeZero)
  ∧ ∀ s : State, s.busy = false →
    exec .nop (hostWrite s 32 0x00C#12 0x00000000#32) = .next { s with
      lastCmd := 0x00000000#32, done := true, err := false, errCause := .noError, errInfo := 0#32 }

/-- R402: a command ends in one of two ways. Either it completes, with DONE = 1 and BUSY = 0 and the error report as it
was; or it reports an error, with ERR = 1, a cause, BUSY = 0, and no other state changed. -/
def Obligations.CommandErrorsChangeNothingElse : Prop :=
  ∀ (i : Instr) (s t : State), exec i s = .next t →
    (t.done = true ∧ t.busy = false ∧ t.err = s.err ∧ t.errCause = s.errCause ∧ t.errInfo = s.errInfo
      ∧ t.cmdErrors = s.cmdErrors)
    ∨ (∃ c info, c ≠ ErrCause.noError ∧ t = { s with
        err := true, errCause := c, errInfo := info, busy := false, cmdErrors := ⟨c, info⟩ :: s.cmdErrors })

/-! ### Reset -/

/-- R450: after the reset input, and in the state right after hardware reset, every register reads its reset value, the
engine is idle, irq is 0, and no place of a memory holds a value written before. -/
def Obligations.ResetRegisterValues : Prop :=
  ∀ (s : State) (rest : List HostInput) (t : State),
    t = State.reset ∨ t = hostTurn { s with host := .resetInput :: rest } →
    regValue t .id = 0x52534D01#32
    ∧ (∀ r : Reg, r ≠ .id → r ≠ .bufData → r ≠ .matData → regValue t r = 0#32)
    ∧ t.busy = false ∧ irq t = false ∧ (∀ b : Buf, bufMem t b = []) ∧ t.mat = []

/-- R36, R451: a CTRL write with bit 31 = 1 puts every register and the engine into the reset state, whatever BUSY is, and
nothing written stays in a memory; otherwise it stores bits 3:0 and nothing else. The fields left out of the comparison are
the model's own: what is outside the device, the number of the draws, and sampledR4, which stands for nothing while no
command is in flight (log entries 2, 3, 4, 6, 7). -/
def Obligations.WritingCtrlResetsOrStoresItsFields : Prop :=
  ∀ (s : State) (v : Word),
    (v.getLsbD 31 = true →
      { hostWrite s 32 0x008#12 v with
        sampledR4 := State.reset.sampledR4, draws := State.reset.draws, host := [], turns := [], replies := [], cmdErrors := [], accessErrors := [] }
        = State.reset)
    ∧ (v.getLsbD 31 = false →
      hostWrite s 32 0x008#12 v = { s with
        ieDone := v.getLsbD 0, ieErr := v.getLsbD 1, ieAerr := v.getLsbD 2
        r4mode := if v.getLsbD 3 then .truncPercent else .exactRatio })

/-- R335: a soft reset abandons a command in flight: it leaves the same state whether the command completed before it or
not, but for the model's record of the errors the command reported (log entry 7). That the memories, too, are the same is
the model's choice: R452 makes their contents after a reset a free value, which in the model depends on the number of resets
and the place alone (log entry 4). -/
def Obligations.SoftResetAbandonsTheCommand : Prop :=
  ∀ (i : Instr) (s t : State), exec i s = .next t →
    { hostWrite t 32 0x008#12 0x80000000#32 with cmdErrors := s.cmdErrors } = hostWrite s 32 0x008#12 0x80000000#32

/-- The invariants of the machine hold at reset. -/
def Obligations.InvariantsHoldAtReset : Prop :=
  flagsOk State.reset ∧ memoryOk State.reset ∧ lengthsOk State.reset ∧ ecvOk State.reset ∧ selectionOk State.reset
  ∧ recordOk State.reset

/-! ### Invariants every step keeps -/

/-- R33, R331: DONE and ERR are never both 1, and neither is 1 while a command is in flight. -/
def Obligations.StepKeepsFlagsConsistent : Prop :=
  ∀ s t : State, flagsOk s → step s = .next t → flagsOk t

/-- R101, R106, R47: every memory keeps its canonical form and lists nothing at or above its capacity, and the lengths of PR
and CW stay within their buffers. -/
def Obligations.StepKeepsMemoriesCanonicalAndBounded : Prop :=
  ∀ s t : State, memoryOk s ∧ lengthsOk s → step s = .next t → memoryOk t ∧ lengthsOk t

/-- R266: STATUS.ECV is 1 only over a layout that has no fault and with DATA_LEN_BITS = 8 · TOTAL_DATA. -/
def Obligations.StepKeepsEcvOverAFinalizedLayout : Prop :=
  ∀ s t : State, ecvOk s → step s = .next t → ecvOk t

/-- R59, R310, R311: SEL.VALID is 1 only while PEN_VALID = 0xFF, and SEL.MASK is 0 while SEL.VALID = 0. -/
def Obligations.StepKeepsSelectionOverScoredSlots : Prop :=
  ∀ s t : State, selectionOk s → step s = .next t → selectionOk t

/-- R469: the model's sticky records only grow, and hold an error whenever STATUS shows one. -/
def Obligations.StepKeepsTheErrorRecords : Prop :=
  ∀ s t : State, step s = .next t →
    s.cmdErrors <:+ t.cmdErrors ∧ s.accessErrors <:+ t.accessErrors ∧ (recordOk s → recordOk t)

/-! ### The field -/

/-- R200, R201: the seed, the recurrence, that it is multiplication by 2 modulo 0x11D, and that the product through the tables is the carry-less product modulo 0x11D for
every pair of non-zero bytes. -/
def Obligations.TheTablesAreTheFieldOfX11D : Prop :=
  (∀ i : Nat, i < 8 → expEntry i = BitVec.ofNat 8 (2 ^ i))
  ∧ (∀ i : Nat, 8 ≤ i → i ≤ 255 →
      expEntry i = expEntry (i - 4) ^^^ expEntry (i - 5) ^^^ expEntry (i - 6) ^^^ expEntry (i - 8))
  ∧ (∀ i : Nat, i < 255 → expEntry (i + 1) = timesAlpha (expEntry i))
  ∧ (∀ a b : Byte, a ≠ 0#8 → b ≠ 0#8 → gfMul a b = some (fieldMul a b))

/-- R202: LOG inverts EXP on 0 to 254, every non-zero byte occurs exactly once there, LOG[0] has no value, EXP[255] = 1. -/
def Obligations.LogInvertsExp : Prop :=
  (∀ i : Nat, i ≤ 254 → gfLog (expEntry i) = some i)
  ∧ (∀ x : Byte, x ≠ 0#8 → ∃ i, i ≤ 254 ∧ expEntry i = x ∧ ∀ j, j ≤ 254 → expEntry j = x → j = i)
  ∧ gfLog 0#8 = none
  ∧ expEntry 255 = expEntry 0

/-- R207: the field laws (a) to (e). -/
def Obligations.FieldLawsHold : Prop :=
  (∀ a : Byte, a ≠ 0#8 → (gfLog a).map (fun l => gfExp (l : Int)) = some a)
  ∧ (∀ n : Int, gfLog (gfExp n) = some (n % 255).toNat)
  ∧ (∀ a b : Byte, gfMul a b = gfMul b a)
  ∧ (∀ a b c : Byte, a ≠ 0#8 → b ≠ 0#8 → c ≠ 0#8 →
      (gfMul a b).bind (fun p => gfMul p c) = (gfMul b c).bind (fun q => gfMul a q))
  ∧ (∀ a : Byte, a ≠ 0#8 → gfMul 1#8 a = some a)
  ∧ (∀ a : Byte, a ^^^ a = 0#8)
  ∧ gfExp 8 = 0x1D#8

/-- R204, R210: GF_EXP n completes for every integer n with RESULT = EXP[n mod 255], and writes nothing else. -/
def Obligations.GfExpWritesThePower : Prop :=
  (∀ imm : BitVec 16, decode (0x01#8 ++ 0x00#8 ++ imm) = .ok (.gfExp imm.toInt))
  ∧ ∀ (n : Int) (s : State), exec (.gfExp n) s = .next { s with
      result := (expEntry (n % 255).toNat).setWidth 32, done := true, busy := false }

/-- R211: GF_LOG x reports DOMAIN_ERROR 1 for 0, and otherwise completes with the l of 0 to 254 whose EXP[l] is x in RESULT,
and writes nothing else. -/
def Obligations.GfLogWritesTheLogarithm : Prop :=
  (∀ x : Byte, decode (0x02#8 ++ 0x0000#16 ++ x) = .ok (.gfLog x))
  ∧ ∀ (x : Byte) (s : State),
    if x = 0#8 then exec (.gfLog x) s = .next (afterError .domainError 1 s)
    else ∃ l : Nat, l ≤ 254 ∧ expEntry l = x
      ∧ exec (.gfLog x) s = .next { s with result := BitVec.ofNat 32 l, done := true, busy := false }

/-- R212: GF_MUL a, b reports DOMAIN_ERROR 1 when a factor is 0, and otherwise completes with gf_exp(LOG[a] + LOG[b]) in
RESULT, and writes nothing else. -/
def Obligations.GfMulWritesTheProduct : Prop :=
  (∀ a b : Byte, decode (0x03#8 ++ 0x00#8 ++ a ++ b) = .ok (.gfMul a b))
  ∧ ∀ (a b : Byte) (s : State),
    if a = 0#8 ∨ b = 0#8 then exec (.gfMul a b) s = .next (afterError .domainError 1 s)
    else ∃ la lb : Nat, la ≤ 254 ∧ lb ≤ 254 ∧ expEntry la = a ∧ expEntry lb = b
      ∧ exec (.gfMul a b) s = .next { s with
          result := (expEntry ((la + lb) % 255)).setWidth 32, done := true, busy := false }

/-! ### Polynomials -/

/-- R230: normalize removes exactly the leading zeros and appends shift zeros; its length; when its result has a leading
zero. -/
def Obligations.NormalizeStripsAllLeadingZeros : Prop :=
  ∀ (c : Poly) (shift : Nat), ∃ z : Nat, z ≤ c.length
    ∧ (∀ i, i < z → c.getD i 1#8 = 0#8) ∧ (z < c.length → c.getD z 0#8 ≠ 0#8)
    ∧ normalize c shift = c.drop z ++ List.replicate shift 0#8
    ∧ (normalize c shift).length = c.length - z + shift
    ∧ ((normalize c shift).head? = some 0#8 ↔ (∀ x ∈ c, x = 0#8) ∧ 0 < shift)

/-- R240: POLY_NEW reports CAPACITY 1, 2 or 8, and otherwise writes the normalised polynomial and its length, and nothing
else. -/
def Obligations.PolyNewNormalisesInPlace : Prop :=
  (∀ (p : PolyBuf) (shift : BitVec 9),
    decode (0x10#8 ++ 0#6 ++ polyBufCode p ++ 0#7 ++ shift) = .ok (.polyNew p shift.toNat))
  ∧ ∀ (p : PolyBuf) (shift : Nat) (s : State),
    if p = .pa ∧ 256 < s.paLen.toNat then exec (.polyNew p shift) s = .next (afterError .capacity 1 s)
    else if p = .pb ∧ 256 < s.pbLen.toNat then exec (.polyNew p shift) s = .next (afterError .capacity 2 s)
    else if 256 < (normalize (readPoly s p) shift).length then
      exec (.polyNew p shift) s = .next (afterError .capacity 8 s)
    else ∃ t, exec (.polyNew p shift) s = .next t ∧ polyWritten p (normalize (readPoly s p) shift) s t

/-- R241: POLY_COPY reports CAPACITY 1 or 2 for its source, and otherwise writes the source's polynomial as it stands into
the destination, and nothing else. -/
def Obligations.PolyCopyCopiesTheSource : Prop :=
  (∀ dst src : PolyBuf,
    decode (0x11#8 ++ 0#4 ++ polyBufCode src ++ polyBufCode dst ++ 0#16) = .ok (.polyCopy dst src))
  ∧ ∀ (dst src : PolyBuf) (s : State),
    if src = .pa ∧ 256 < s.paLen.toNat then exec (.polyCopy dst src) s = .next (afterError .capacity 1 s)
    else if src = .pb ∧ 256 < s.pbLen.toNat then exec (.polyCopy dst src) s = .next (afterError .capacity 2 s)
    else ∃ t, exec (.polyCopy dst src) s = .next t ∧ polyWritten dst (readPoly s src) s t

/-- R242: POLY_MUL reports CAPACITY 1, 2, 3 or DOMAIN_ERROR 2 in that order, and otherwise writes into PR the empty
polynomial for an empty operand, or the product: its length is the sum of the lengths less 1, and coefficient k is the sum
of the field products a[i] b[k - i]. -/
def Obligations.PolyMulWritesTheProduct : Prop :=
  decode 0x12000000#32 = .ok .polyMul
  ∧ ∀ s : State,
    let a := readPoly s .pa
    let b := readPoly s .pb
    if 256 < a.length then exec .polyMul s = .next (afterError .capacity 1 s)
    else if 256 < b.length then exec .polyMul s = .next (afterError .capacity 2 s)
    else if 0 < a.length ∧ 0 < b.length ∧ 256 < a.length + b.length - 1 then
      exec .polyMul s = .next (afterError .capacity 3 s)
    else if 0 < a.length ∧ 0 < b.length ∧ (0#8 ∈ a ∨ 0#8 ∈ b) then
      exec .polyMul s = .next (afterError .domainError 2 s)
    else ∃ t r, exec .polyMul s = .next t ∧ polyWritten .pr r s t
      ∧ (a.length = 0 ∨ b.length = 0 → r = [])
      ∧ (0 < a.length ∧ 0 < b.length →
          r.length = a.length + b.length - 1 ∧ ∀ k, k < r.length → r.getD k 0#8 = productCoeff a b k)

/-- R243, R232, R233: POLY_MOD reports CAPACITY 1, 2, DOMAIN_ERROR 4 or 3 in that order, and otherwise writes into PR the dividend
unchanged when it is shorter than the divisor, or the Euclidean remainder: shorter than the divisor, without a leading zero,
and dividend = q · divisor + remainder, coefficient by coefficient, for some quotient q. -/
def Obligations.PolyModWritesTheRemainder : Prop :=
  decode 0x13000000#32 = .ok .polyMod
  ∧ ∀ s : State,
    let a := readPoly s .pa
    let b := readPoly s .pb
    if 256 < a.length then exec .polyMod s = .next (afterError .capacity 1 s)
    else if 256 < b.length then exec .polyMod s = .next (afterError .capacity 2 s)
    else if b.length = 0 then exec .polyMod s = .next (afterError .domainError 4 s)
    else if b.length ≤ a.length ∧ (a.head? = some 0#8 ∨ 0#8 ∈ b) then
      exec .polyMod s = .next (afterError .domainError 3 s)
    else ∃ t r, exec .polyMod s = .next t ∧ polyWritten .pr r s t
      ∧ (a.length < b.length → r = a)
      ∧ (b.length ≤ a.length → r.length < b.length ∧ r.head? ≠ some 0#8
          ∧ ∃ q : Poly, q.length = a.length - b.length + 1
            ∧ ∀ k, k < a.length → a.getD k 0#8
              = productCoeff q b k ^^^ (List.replicate (a.length - r.length) 0#8 ++ r).getD k 0#8)

/-- R234, R244: POLY_GEN n reports CAPACITY 9 for n > 255, and otherwise writes into PR the generator polynomial: n + 1
coefficients, the first 1, with the roots α^0 to α^(n-1). -/
def Obligations.PolyGenWritesTheGenerator : Prop :=
  (∀ n : BitVec 9, decode (0x14#8 ++ 0#15 ++ n) = .ok (.polyGen n.toNat))
  ∧ ∀ (n : Nat) (s : State),
    if 255 < n then exec (.polyGen n) s = .next (afterError .capacity 9 s)
    else ∃ t g, exec (.polyGen n) s = .next t ∧ polyGen n = some g ∧ polyWritten .pr g s t
      ∧ g.length = n + 1 ∧ g.head? = some 1#8 ∧ ∀ i, i < n → evalPoly g (expEntry i) = 0#8

/-- R235: the generators: (a) no zero coefficient up to n = 254, (b) x^255 + 1 for 255, (c) a fault from 256 on, (d) the
listed values. -/
def Obligations.GeneratorCoefficients : Prop :=
  (∀ n : Nat, n ≤ 254 → ∃ g, polyGen n = some g ∧ g.length = n + 1 ∧ g.head? = some 1#8 ∧ 0#8 ∉ g)
  ∧ polyGen 255 = some ([1#8] ++ List.replicate 254 0#8 ++ [1#8])
  ∧ (∀ n : Nat, 256 ≤ n → polyGen n = none)
  ∧ polyGen 0 = some [1#8] ∧ polyGen 1 = some [1#8, 1#8] ∧ polyGen 2 = some [1#8, 3#8, 2#8]
  ∧ polyGen 4 = some [1#8, 15#8, 54#8, 120#8, 64#8]
  ∧ polyGen 7 = some [1#8, 127#8, 122#8, 154#8, 164#8, 11#8, 68#8, 117#8]
  ∧ polyGen 10 = some [1#8, 216#8, 194#8, 159#8, 111#8, 199#8, 94#8, 95#8, 113#8, 157#8, 193#8]

/-! ### The error-correction encoder -/

/-- R260, R52 to R54: the block list is the groups' blocks, GROUP0 first; TOTAL_DATA, TOTAL_CW and NBLOCKS read the sums over
the GROUP registers, none of which wraps, and they are the sums over the block list. -/
def Obligations.BlockListAndTotals : Prop :=
  ∀ s : State,
    (blocks s = List.replicate s.groups[0].count.toNat ⟨s.groups[0].total.toNat, s.groups[0].data.toNat⟩
      ++ List.replicate s.groups[1].count.toNat ⟨s.groups[1].total.toNat, s.groups[1].data.toNat⟩
      ++ List.replicate s.groups[2].count.toNat ⟨s.groups[2].total.toNat, s.groups[2].data.toNat⟩
      ++ List.replicate s.groups[3].count.toNat ⟨s.groups[3].total.toNat, s.groups[3].data.toNat⟩)
    ∧ (regValue s .totalData).toNat = ∑ k : Fin 4, s.groups[k].count.toNat * s.groups[k].data.toNat
    ∧ (regValue s .totalCw).toNat = ∑ k : Fin 4, s.groups[k].count.toNat * s.groups[k].total.toNat
    ∧ (regValue s .nBlocks).toNat = ∑ k : Fin 4, s.groups[k].count.toNat
    ∧ ((blocks s).map Block.d).sum = (regValue s .totalData).toNat
    ∧ ((blocks s).map Block.t).sum = (regValue s .totalCw).toNat
    ∧ (blocks s).length = (regValue s .nBlocks).toNat
    ∧ totalData s ≤ 260100 ∧ totalCw s ≤ 260100 ∧ nBlocks s ≤ 260100

/-- R264: RS_FINALIZE reports a layout fault, CAPACITY 4 or ENCODING_OVERFLOW, and otherwise writes the T finalized data
codewords (terminator, byte fill, pads), DATA_LEN_BITS = 8 T and ECV = 0, and nothing else. -/
def Obligations.RsFinalizeCompletesTheData : Prop :=
  decode 0x20000000#32 = .ok .rsFinalize
  ∧ ∀ s : State,
    match layoutFault s with
    | some f => exec .rsFinalize s = .next (afterError f.1 f.2 s)
    | none =>
      if 32768 < s.dataLenBits.toNat then exec .rsFinalize s = .next (afterError .capacity 4 s)
      else if 8 * totalData s < s.dataLenBits.toNat then
        exec .rsFinalize s = .next (afterError .encodingOverflow s.dataLenBits.toNat s)
      else ∃ t, exec .rsFinalize s = .next t
        ∧ (∀ k, k < 8 * totalData s → dataBit t k = finalizedBit s k)
        ∧ (∀ b i, b ≠ Buf.data ∨ totalData s ≤ i → readByte t b i = readByte s b i)
        ∧ t.dataLenBits.toNat = 8 * totalData s ∧ t.ecv = false ∧ t.done = true ∧ t.busy = false
        ∧ { t with
            data := s.data, dataLenBits := s.dataLenBits, ecv := s.ecv, done := s.done, busy := s.busy } = s

/-- R264: RS_FINALIZE applied twice gives the result of applying it once. -/
def Obligations.RsFinalizeTwiceIsOnce : Prop :=
  ∀ s t : State, exec .rsFinalize s = .next t → t.cmdErrors = s.cmdErrors →
    ∃ u, exec .rsFinalize t = .next u ∧ (∀ b i, readByte u b i = readByte t b i) ∧ { u with data := t.data } = t

/-- R265: RS_BLOCKS reports a layout fault or SEQUENCE 1, and otherwise writes ec_bytes(D_b, n_b) of every block b at 256 b
of the EC store, sets ECV, and writes nothing else. -/
def Obligations.RsBlocksWritesTheRemainders : Prop :=
  decode 0x21000000#32 = .ok .rsBlocks
  ∧ ∀ s : State,
    match layoutFault s with
    | some f => exec .rsBlocks s = .next (afterError f.1 f.2 s)
    | none =>
      if s.dataLenBits.toNat ≠ 8 * totalData s then exec .rsBlocks s = .next (afterError .sequence 1 s)
      else ∃ t, exec .rsBlocks s = .next t
        ∧ (∀ b k, (blocks s)[b]? = some k → ecBytes (blockData s b) k.n = some (blockEc t b))
        ∧ (∀ i, (∀ b k, (blocks s)[b]? = some k → ¬(256 * b ≤ i ∧ i < 256 * b + k.n)) →
            readByte t .ec i = readByte s .ec i)
        ∧ t.ecv = true ∧ t.done = true ∧ t.busy = false
        ∧ { t with ec := s.ec, ecv := s.ecv, done := s.done, busy := s.busy } = s

/-- R262, C1 of 90_conflicts.md: the error-correction codewords are the Reed–Solomon remainder: n of them, and data followed
by them is a polynomial with the roots α^0 to α^(n-1), that is, a multiple of the generator. -/
def Obligations.EcBytesMakeACodeword : Prop :=
  ∀ (data : List Byte) (n : Nat) (e : List Byte), ecBytes data n = some e →
    e.length = n ∧ ∀ i, i < n → evalPoly (data ++ e) (expEntry i) = 0#8

/-- R263: the order of the interleaved stream: data element i of block b stands after the rounds before i and after the
blocks before b that have an element i; the error-correction rounds follow in the same way. -/
def Obligations.InterleaveIsRoundByRound : Prop :=
  ∀ d e : List (List Byte),
    (interleave d e).length = (d.map List.length).sum + (e.map List.length).sum
    ∧ (∀ b i q v, d[b]? = some q → q[i]? = some v → (interleave d e)[roundPosition d i b]? = some v)
    ∧ (∀ b i q v, e[b]? = some q → q[i]? = some v →
        (interleave d e)[(d.map List.length).sum + roundPosition e i b]? = some v)

/-- R267: RS_INTERLEAVE reports a layout fault, CAPACITY 6, SEQUENCE 3 or SEQUENCE 2 in that order, and otherwise writes the
interleaved stream of the blocks' data and error-correction codewords into CW, CW_LEN = TOTAL_CW, and nothing else. -/
def Obligations.RsInterleaveWritesTheStream : Prop :=
  decode 0x22000000#32 = .ok .rsInterleave
  ∧ ∀ s : State,
    match layoutFault s with
    | some f => exec .rsInterleave s = .next (afterError f.1 f.2 s)
    | none =>
      if 4096 < totalCw s then exec .rsInterleave s = .next (afterError .capacity 6 s)
      else if s.dataLenBits.toNat ≠ 8 * totalData s then exec .rsInterleave s = .next (afterError .sequence 3 s)
      else if s.ecv = false then exec .rsInterleave s = .next (afterError .sequence 2 s)
      else ∃ t, exec .rsInterleave s = .next t
        ∧ readBytes t .cw 0 (totalCw s)
          = interleave ((List.range (nBlocks s)).map (blockData s)) ((List.range (nBlocks s)).map (blockEc s))
        ∧ (∀ b i, b ≠ Buf.cw ∨ totalCw s ≤ i → readByte t b i = readByte s b i)
        ∧ t.cwLen.toNat = totalCw s ∧ t.done = true ∧ t.busy = false
        ∧ { t with cw := s.cw, cwLen := s.cwLen, done := s.done, busy := s.busy } = s

/-- R268: RS_ENCODE reports a layout fault, CAPACITY 4, CAPACITY 6 or ENCODING_OVERFLOW in that order, and otherwise
completes in the state that RS_FINALIZE, RS_BLOCKS and RS_INTERLEAVE in turn leave, none of them reporting an error. -/
def Obligations.RsEncodeIsTheThreeInTurn : Prop :=
  decode 0x23000000#32 = .ok .rsEncode
  ∧ ∀ s : State,
    match layoutFault s with
    | some f => exec .rsEncode s = .next (afterError f.1 f.2 s)
    | none =>
      if 32768 < s.dataLenBits.toNat then exec .rsEncode s = .next (afterError .capacity 4 s)
      else if 4096 < totalCw s then exec .rsEncode s = .next (afterError .capacity 6 s)
      else if 8 * totalData s < s.dataLenBits.toNat then
        exec .rsEncode s = .next (afterError .encodingOverflow s.dataLenBits.toNat s)
      else ∃ t s1 s2, exec .rsEncode s = .next t
        ∧ exec .rsFinalize s = .next s1 ∧ exec .rsBlocks s1 = .next s2 ∧ exec .rsInterleave s2 = .next t
        ∧ s1.cmdErrors = s.cmdErrors ∧ s2.cmdErrors = s.cmdErrors ∧ t.cmdErrors = s.cmdErrors
        ∧ t.dataLenBits.toNat = 8 * totalData s ∧ t.cwLen.toNat = totalCw s
        ∧ t.ecv = true ∧ t.done = true ∧ t.busy = false

/-- R269: no RS command raises DOMAIN_ERROR. -/
def Obligations.NoRsCommandRaisesDomainError : Prop :=
  ∀ (i : Instr) (s t : State), i ∈ [Instr.rsFinalize, .rsBlocks, .rsInterleave, .rsEncode] → exec i s = .next t →
    t.cmdErrors = s.cmdErrors ∨ (∃ c info, c ≠ ErrCause.domainError ∧ t.cmdErrors = ⟨c, info⟩ :: s.cmdErrors)

/-! ### The mask evaluator -/

/-- R301: rule 1 by cells and neighbourhoods: the eight positions around a cell that lie inside the matrix. A corner cell has
at most 3 same-colour neighbours and an edge cell at most 5. -/
def Obligations.Rule1CountsNeighbourhoods : Prop :=
  ∀ (m : Nat → Nat → Bool) (n : Nat),
    (∀ r c, r < n → c < n → sameNeighbours m n r c
      = (((Finset.range n) ×ˢ (Finset.range n)).filter (fun p =>
          p ≠ (r, c) ∧ p.1 ≤ r + 1 ∧ r ≤ p.1 + 1 ∧ p.2 ≤ c + 1 ∧ c ≤ p.2 + 1 ∧ m p.1 p.2 = m r c)).card)
    ∧ penaltyRule1 m n = ∑ r ∈ Finset.range n, ∑ c ∈ Finset.range n,
        (if 5 < sameNeighbours m n r c then 3 + (sameNeighbours m n r c - 5) else 0)
    ∧ (∀ r c, (r = 0 ∨ r + 1 = n) → (c = 0 ∨ c + 1 = n) → sameNeighbours m n r c ≤ 3)
    ∧ (∀ r c, (r = 0 ∨ r + 1 = n ∨ c = 0 ∨ c + 1 = n) → sameNeighbours m n r c ≤ 5)

/-- R302, R303: rule 2 adds 3 for every 2 x 2 block of one colour; rule 3 adds 40 for every horizontal and every vertical
7-cell window equal to the signature. -/
def Obligations.Rules2And3CountBlocksAndWindows : Prop :=
  ∀ (m : Nat → Nat → Bool) (n : Nat),
    penaltyRule2 m n = 3 * (((Finset.range n) ×ˢ (Finset.range n)).filter (fun p =>
      p.1 + 1 < n ∧ p.2 + 1 < n ∧ m (p.1 + 1) p.2 = m p.1 p.2 ∧ m p.1 (p.2 + 1) = m p.1 p.2
        ∧ m (p.1 + 1) (p.2 + 1) = m p.1 p.2)).card
    ∧ penaltyRule3 m n
      = 40 * (((Finset.range n) ×ˢ (Finset.range n)).filter (fun p =>
          p.2 + 7 ≤ n ∧ ∀ j, j < 7 → m p.1 (p.2 + j) = [true, false, true, true, true, false, true].getD j false)).card
        + 40 * (((Finset.range n) ×ˢ (Finset.range n)).filter (fun p =>
          p.1 + 7 ≤ n ∧ ∀ j, j < 7 → m (p.1 + j) p.2 = [true, false, true, true, true, false, true].getD j false)).card

/-- R304: rule 4: EXACT is DOC's formula in rational arithmetic, TRUNC the same with the percentage rounded down first; the
value is one of 0, 10, …, 100, and EXACT gives the same for the light and the dark count. -/
def Obligations.Rule4InBothModes : Prop :=
  (∀ (m : Nat → Nat → Bool) (n : Nat), lightCount m n
    = (((Finset.range n) ×ˢ (Finset.range n)).filter (fun p => m p.1 p.2 = false)).card)
  ∧ ∀ lc n : Nat, 0 < n → lc ≤ n ^ 2 →
    ((penaltyRule4 .exactRatio lc n : ℤ) = 10 * ⌊|(100 * lc : ℚ) / n ^ 2 - 50| / 5⌋)
    ∧ ((penaltyRule4 .truncPercent lc n : ℤ) = 10 * ⌊|((⌊(100 * lc : ℚ) / n ^ 2⌋ : ℤ) : ℚ) - 50| / 5⌋)
    ∧ (∀ mode, 10 ∣ penaltyRule4 mode lc n ∧ penaltyRule4 mode lc n ≤ 100)
    ∧ penaltyRule4 .exactRatio (n ^ 2 - lc) n = penaltyRule4 .exactRatio lc n

/-- R306: the bounds of the four scores, and that no penalty of a legal side reaches 2^22. -/
def Obligations.PenaltiesAreBounded : Prop :=
  ∀ (m : Nat → Nat → Bool) (mode : R4Mode) (n : Nat), 21 ≤ n → n ≤ 177 →
    penaltyRule1 m n ≤ 6 * n ^ 2 ∧ penaltyRule2 m n ≤ 3 * (n - 1) ^ 2 ∧ penaltyRule3 m n ≤ 80 * n * (n - 6)
    ∧ penaltyRule4 mode (lightCount m n) n ≤ 100
    ∧ penaltyRule1 m n + penaltyRule2 m n + penaltyRule3 m n + penaltyRule4 mode (lightCount m n) n < 2 ^ 22

/-- R300, R305: MASK_EVAL k reports CONFIG_ERROR 2 unless MAT_SIZE is 4 v + 17 for a v of 1 to 40, and otherwise writes the
four scores of the matrix, their sum into PENk, and bit k of PEN_VALID, and nothing else. -/
def Obligations.MaskEvalScoresTheMatrix : Prop :=
  (∀ k : BitVec 3, decode (0x30#8 ++ 0#21 ++ k) = .ok (.maskEval k.toNat))
  ∧ ∀ (k : Fin 8) (s : State),
    (¬(∃ v, 1 ≤ v ∧ v ≤ 40 ∧ s.matSize.toNat = 4 * v + 17) →
      exec (.maskEval k.val) s = .next (afterError .configError 2 s))
    ∧ ((∃ v, 1 ≤ v ∧ v ≤ 40 ∧ s.matSize.toNat = 4 * v + 17) →
      ∃ t, exec (.maskEval k.val) s = .next t
        ∧ t.penR1.toNat = penaltyRule1 (matCell s) s.matSize.toNat
        ∧ t.penR2.toNat = penaltyRule2 (matCell s) s.matSize.toNat
        ∧ t.penR3.toNat = penaltyRule3 (matCell s) s.matSize.toNat
        ∧ t.penR4.toNat = penaltyRule4 s.sampledR4 (lightCount (matCell s) s.matSize.toNat) s.matSize.toNat
        ∧ t.pens[k].toNat = t.penR1.toNat + t.penR2.toNat + t.penR3.toNat + t.penR4.toNat
        ∧ (∀ j : Fin 8, j ≠ k → t.pens[j] = s.pens[j])
        ∧ (∀ j : Nat, j < 8 → t.penValid.getLsbD j = (s.penValid.getLsbD j || decide (j = k.val)))
        ∧ t.done = true ∧ t.busy = false
        ∧ { t with
            penR1 := s.penR1, penR2 := s.penR2, penR3 := s.penR3, penR4 := s.penR4, pens := s.pens
            penValid := s.penValid, done := s.done, busy := s.busy } = s)

/-- R300: MASK_EVAL ignores the cells outside the N x N matrix: two states that agree on its cells and on MAT_SIZE and the
sampled mode get the same scores. -/
def Obligations.MaskEvalIgnoresCellsOutside : Prop :=
  ∀ (k : Fin 8) (s s' t t' : State), s'.matSize = s.matSize → s'.sampledR4 = s.sampledR4 →
    (∀ r c, r < s.matSize.toNat → c < s.matSize.toNat → matCell s' r c = matCell s r c) →
    (∃ v, 1 ≤ v ∧ v ≤ 40 ∧ s.matSize.toNat = 4 * v + 17) →
    exec (.maskEval k.val) s = .next t → exec (.maskEval k.val) s' = .next t' →
    t'.penR1 = t.penR1 ∧ t'.penR2 = t.penR2 ∧ t'.penR3 = t.penR3 ∧ t'.penR4 = t.penR4 ∧ t'.pens[k] = t.pens[k]

/-- R310: MASK_SELECT reports SEQUENCE 4 unless PEN_VALID = 0xFF, and otherwise writes the lowest k whose PENk is least, with
VALID = 1, and nothing else. -/
def Obligations.MaskSelectPicksTheLowestLeast : Prop :=
  decode 0x31000000#32 = .ok .maskSelect
  ∧ ∀ s : State,
    if s.penValid ≠ 0xFF#8 then exec .maskSelect s = .next (afterError .sequence 4 s)
    else ∃ k : Fin 8,
      (∀ j : Fin 8, s.pens[k].toNat ≤ s.pens[j].toNat) ∧ (∀ j : Fin 8, j < k → s.pens[k].toNat < s.pens[j].toNat)
      ∧ exec .maskSelect s = .next { s with
          selMask := BitVec.ofNat 3 k.val, selValid := true, done := true, busy := false }

/-- R311: MASK_CLEAR sets PEN_VALID, SEL, PEN0 to PEN7 and PEN_R1 to PEN_R4 to 0, and writes nothing else. -/
def Obligations.MaskClearDiscardsTheResults : Prop :=
  decode 0x32000000#32 = .ok .maskClear
  ∧ ∀ s : State, ∃ t, exec .maskClear s = .next t
    ∧ t.penValid = 0#8 ∧ selWord t = 0#32 ∧ (∀ k : Fin 8, t.pens[k] = 0#32)
    ∧ t.penR1 = 0#32 ∧ t.penR2 = 0#32 ∧ t.penR3 = 0#32 ∧ t.penR4 = 0#32 ∧ t.done = true ∧ t.busy = false
    ∧ { t with
        penValid := s.penValid, selMask := s.selMask, selValid := s.selValid, pens := s.pens
        penR1 := s.penR1, penR2 := s.penR2, penR3 := s.penR3, penR4 := s.penR4
        done := s.done, busy := s.busy } = s

/-! ### The register window -/

/-- R410, R411: which cause an access reports, in the order SIZE, UNMAPPED, BUSY, READ_ONLY, the port's own checks; and that
an access error writes AERR, AERR_CAUSE and AERR_ADDR and nothing else, a read returning 0. -/
def Obligations.AccessErrorsByCauseAndEffect : Prop :=
  (∀ (s : State) (dir : Dir) (width : Nat) (o : BitVec 12), accessCheck s dir width o =
    if width ≠ 32 ∨ o.toNat % 4 ≠ 0 then some .size
    else if 0x0A0 ≤ o.toNat then some .unmapped
    else if s.busy = true ∧ ¬(dir = .read ∧ o.toNat ∈ [0x000, 0x004, 0x008, 0x00C])
        ∧ ¬(dir = .write ∧ o.toNat ∈ [0x004, 0x008]) then some .busy
    else if dir = .write ∧ (o.toNat ∈ [0x000, 0x010, 0x014, 0x018, 0x01C, 0x020, 0x034, 0x03C, 0x050, 0x054, 0x058]
        ∨ 0x068 ≤ o.toNat) then some .readOnly
    else if o.toNat = 0x028 then
      if 6 ≤ s.bufSel.toNat then some .unmapped
      else if [4096, 256, 256, 256, 4096, 32768].getD s.bufSel.toNat 0 ≤ s.bufIndex.toNat then some .bounds
      else if dir = .write ∧ 3 ≤ s.bufSel.toNat then some .readOnly
      else none
    else if o.toNat = 0x064 then
      if min s.matSize.toNat 177 ≤ s.matRow.toNat ∨ (min s.matSize.toNat 177 + 31) / 32 ≤ s.matWord.toNat then
        some .bounds
      else none
    else none)
  ∧ (∀ (s : State) (width : Nat) (o : BitVec 12) (c : AerrCause), accessCheck s .read width o = some c →
      hostRead s width o = ({ s with
        aerr := true, aerrCause := c, aerrAddr := o, accessErrors := ⟨c, o⟩ :: s.accessErrors }, 0#32))
  ∧ (∀ (s : State) (width : Nat) (o : BitVec 12) (v : Word) (c : AerrCause), accessCheck s .write width o = some c →
      hostWrite s width o v = { s with
        aerr := true, aerrCause := c, aerrAddr := o, accessErrors := ⟨c, o⟩ :: s.accessErrors })

/-- R104, R44: a performed BUF_DATA access reads or writes the selected byte, and INDEX advances by 1 modulo 2^16; nothing
else changes, STATUS.ECV among it (R266). -/
def Obligations.BufDataTransfersOneByte : Prop :=
  ∀ (s : State) (b : Buf) (v : Word), s.busy = false → s.bufSel.toNat = b.sel → s.bufIndex.toNat < b.cap →
    hostRead s 32 0x028#12
      = ({ s with bufIndex := s.bufIndex + 1#16 }, (readByte s b s.bufIndex.toNat).setWidth 32)
    ∧ (b = .data ∨ b = .pa ∨ b = .pb →
      (hostWrite s 32 0x028#12 v).bufIndex = s.bufIndex + 1#16
      ∧ (∀ b' i, readByte (hostWrite s 32 0x028#12 v) b' i
          = if b' = b ∧ i = s.bufIndex.toNat then v.extractLsb' 0 8 else readByte s b' i)
      ∧ { hostWrite s 32 0x028#12 v with data := s.data, pa := s.pa, pb := s.pb, bufIndex := s.bufIndex } = s)

/-- R107, R108: a performed MAT_DATA access reads or writes the addressed word, and MAT_ADDR advances in row-major order;
nothing else changes. Cell 32 w + j of a written row is bit 31 - j of the word (R106). -/
def Obligations.MatDataTransfersOneWord : Prop :=
  ∀ (s : State) (v : Word), s.busy = false → s.matRow.toNat < min s.matSize.toNat 177 →
    s.matWord.toNat < (min s.matSize.toNat 177 + 31) / 32 →
    (let next : State :=
      if s.matWord.toNat + 1 < (min s.matSize.toNat 177 + 31) / 32 then { s with matWord := s.matWord + 1#3 }
      else { s with matWord := 0#3, matRow := s.matRow + 1#8 }
    hostRead s 32 0x064#12 = (next, readMatWord s s.matRow.toNat s.matWord.toNat)
    ∧ (∀ r c, c < 192 → matCell (hostWrite s 32 0x064#12 v) r c
        = if r = s.matRow.toNat ∧ c / 32 = s.matWord.toNat then v.getLsbD (31 - c % 32) else matCell s r c)
    ∧ { hostWrite s 32 0x064#12 v with mat := s.mat } = next)

/-- R34: a write of STATUS clears DONE, ERR and AERR where the written bit is 1, and does nothing else; it is performed
while BUSY = 1 too. -/
def Obligations.WritingStatusClearsFlags : Prop :=
  ∀ (s : State) (v : Word), hostWrite s 32 0x004#12 v = { s with
    done := if v.getLsbD 1 then false else s.done
    err := if v.getLsbD 2 then false else s.err
    aerr := if v.getLsbD 3 then false else s.aerr }

/-- R48, R51: a write of DATA_LEN_BITS or of GROUPk stores its fields, ignores the reserved bits, clears STATUS.ECV, and does
nothing else. -/
def Obligations.LayoutWritesClearEcv : Prop :=
  ∀ (s : State) (v : Word), s.busy = false →
    hostWrite s 32 0x038#12 v = { s with dataLenBits := v.extractLsb' 0 16, ecv := false }
    ∧ ∀ k : Fin 4, hostWrite s 32 (BitVec.ofNat 12 (0x040 + 4 * k.val)) v = { s with
        groups := s.groups.set k ⟨v.extractLsb' 0 8, v.extractLsb' 8 8, v.extractLsb' 16 8⟩, ecv := false }

/-- R43, R45, R46, R48, R50, R55, R56, R62: what is written to a register of plain fields is read back with its reserved
bits 0; and a write of BUF_ADDR, PA_LEN, PB_LEN, MAT_SIZE or MAT_ADDR stores the fields and has no other effect. (The same
frame for DATA_LEN_BITS and the GROUP registers, which clear ECV too, is LayoutWritesClearEcv.) -/
def Obligations.PlainRegistersReadBack : Prop :=
  (∀ (s : State) (o : BitVec 12) (mask v : Word), s.busy = false →
    (o, mask) ∈ [(0x024#12, 0x000FFFFF#32), (0x02C#12, 0x000001FF#32), (0x030#12, 0x000001FF#32),
      (0x038#12, 0x0000FFFF#32), (0x040#12, 0x00FFFFFF#32), (0x044#12, 0x00FFFFFF#32), (0x048#12, 0x00FFFFFF#32),
      (0x04C#12, 0x00FFFFFF#32), (0x05C#12, 0x000000FF#32), (0x060#12, 0x000007FF#32)] →
    (hostRead (hostWrite s 32 o v) 32 o).2 = v &&& mask)
  ∧ (∀ (s : State) (v : Word), s.busy = false →
    hostWrite s 32 0x024#12 v = { s with bufIndex := v.extractLsb' 0 16, bufSel := v.extractLsb' 16 4 }
    ∧ hostWrite s 32 0x02C#12 v = { s with paLen := v.extractLsb' 0 9 }
    ∧ hostWrite s 32 0x030#12 v = { s with pbLen := v.extractLsb' 0 9 }
    ∧ hostWrite s 32 0x05C#12 v = { s with matSize := v.extractLsb' 0 8 }
    ∧ hostWrite s 32 0x060#12 v = { s with matRow := v.extractLsb' 0 8, matWord := v.extractLsb' 8 3 })

/-- R32 to R61 at the offsets of the register map, the codes of R401 and R410 among them: what a read of each register but
the two ports returns, and that it changes nothing (R112). ID, STATUS, CTRL and CMD are read so in every state, busy or not
(R113), ID as 0x52534D01 (R32); the other registers while BUSY = 0. And a performed read of any register but the ports
changes nothing. -/
def Obligations.ReadsHaveNoSideEffect : Prop :=
  (∀ s : State,
    hostRead s 32 0x000#12 = (s, 0x52534D01#32)
    ∧ hostRead s 32 0x004#12 = (s, BitVec.ofNat 32
        (s.busy.toNat + 2 * s.done.toNat + 4 * s.err.toNat + 8 * s.aerr.toNat + 16 * s.ecv.toNat))
    ∧ hostRead s 32 0x008#12 = (s, BitVec.ofNat 32
        (s.ieDone.toNat + 2 * s.ieErr.toNat + 4 * s.ieAerr.toNat
          + 8 * (match s.r4mode with | .exactRatio => 0 | .truncPercent => 1)))
    ∧ hostRead s 32 0x00C#12 = (s, s.lastCmd))
  ∧ (∀ s : State, s.busy = false →
    hostRead s 32 0x010#12 = (s, match s.errCause with
        | .noError => 0#32 | .illegalCommand => 1#32 | .configError => 2#32 | .domainError => 3#32
        | .encodingOverflow => 4#32 | .capacity => 5#32 | .sequence => 6#32)
    ∧ hostRead s 32 0x014#12 = (s, s.errInfo)
    ∧ hostRead s 32 0x018#12 = (s, match s.aerrCause with
        | .noError => 0#32 | .busy => 1#32 | .bounds => 2#32 | .readOnly => 3#32 | .unmapped => 4#32 | .size => 5#32)
    ∧ hostRead s 32 0x01C#12 = (s, BitVec.ofNat 32 s.aerrAddr.toNat)
    ∧ hostRead s 32 0x020#12 = (s, s.result)
    ∧ hostRead s 32 0x024#12 = (s, BitVec.ofNat 32 (65536 * s.bufSel.toNat + s.bufIndex.toNat))
    ∧ hostRead s 32 0x02C#12 = (s, BitVec.ofNat 32 s.paLen.toNat)
    ∧ hostRead s 32 0x030#12 = (s, BitVec.ofNat 32 s.pbLen.toNat)
    ∧ hostRead s 32 0x034#12 = (s, BitVec.ofNat 32 s.prLen.toNat)
    ∧ hostRead s 32 0x038#12 = (s, BitVec.ofNat 32 s.dataLenBits.toNat)
    ∧ hostRead s 32 0x03C#12 = (s, BitVec.ofNat 32 s.cwLen.toNat)
    ∧ (∀ k : Fin 4, hostRead s 32 (BitVec.ofNat 12 (0x040 + 4 * k.val)) = (s, BitVec.ofNat 32
        (65536 * s.groups[k].data.toNat + 256 * s.groups[k].total.toNat + s.groups[k].count.toNat)))
    ∧ hostRead s 32 0x050#12 = (s, BitVec.ofNat 32 (∑ k : Fin 4, s.groups[k].count.toNat * s.groups[k].data.toNat))
    ∧ hostRead s 32 0x054#12 = (s, BitVec.ofNat 32 (∑ k : Fin 4, s.groups[k].count.toNat * s.groups[k].total.toNat))
    ∧ hostRead s 32 0x058#12 = (s, BitVec.ofNat 32 (∑ k : Fin 4, s.groups[k].count.toNat))
    ∧ hostRead s 32 0x05C#12 = (s, BitVec.ofNat 32 s.matSize.toNat)
    ∧ hostRead s 32 0x060#12 = (s, BitVec.ofNat 32 (256 * s.matWord.toNat + s.matRow.toNat))
    ∧ hostRead s 32 0x068#12 = (s, BitVec.ofNat 32 s.penValid.toNat)
    ∧ hostRead s 32 0x06C#12 = (s, BitVec.ofNat 32 (2 ^ 31 * s.selValid.toNat + s.selMask.toNat))
    ∧ hostRead s 32 0x070#12 = (s, s.penR1)
    ∧ hostRead s 32 0x074#12 = (s, s.penR2)
    ∧ hostRead s 32 0x078#12 = (s, s.penR3)
    ∧ hostRead s 32 0x07C#12 = (s, s.penR4)
    ∧ (∀ k : Fin 8, hostRead s 32 (BitVec.ofNat 12 (0x080 + 4 * k.val)) = (s, s.pens[k])))
  ∧ ∀ (s : State) (width : Nat) (o : BitVec 12), accessCheck s .read width o = none → o ≠ 0x028#12 → o ≠ 0x064#12 →
      (hostRead s width o).1 = s

/-- R33, R35, R420: irq is the enabled flags of the STATUS and CTRL words; writing 1 to the flags clears it, and so does
clearing the enables; issuing a command clears DONE and ERR, so that only AERR can hold it up; it is 0 after reset. -/
def Obligations.InterruptOutput : Prop :=
  ∀ s : State,
    irq s = ((statusWord s).getLsbD 1 && (ctrlWord s).getLsbD 0 || (statusWord s).getLsbD 2 && (ctrlWord s).getLsbD 1
      || (statusWord s).getLsbD 3 && (ctrlWord s).getLsbD 2)
    ∧ irq (hostWrite s 32 0x004#12 0x0000000E#32) = false
    ∧ irq (hostWrite s 32 0x008#12 0x00000000#32) = false
    ∧ (s.busy = false → ∀ w, irq (hostWrite s 32 0x00C#12 w) = (s.aerr && s.ieAerr))
    ∧ irq State.reset = false

/-- R113, R333: no access the host makes while a command is in flight changes what the command does, unless it resets the
device: completing after the access and completing before it give the same registers, memories and error report. -/
def Obligations.HostCannotDisturbTheCommand : Prop :=
  ∀ (i : Instr) (s t u : State), s.busy = true → (hostTurn s).busy = true →
    exec i s = .next t → exec i (hostTurn s) = .next u → engineView u = engineView t
end

