-- ==== Sys2Proof/Laws/Memory.lean ====
section
/-! SUPPORT. The laws of the sparse memories: a read after a write, and that every operation keeps the canonical form and
the capacity bound. -/

namespace Sys2Proof.Machine

@[simp] theorem Memory.read_nil {α : Type} (a : Nat) : Memory.read ([] : Memory α) a = none := rfl

/-- A read after a write: the written value there, the old contents everywhere else. -/
@[simp] theorem Memory.read_write {α : Type} (m : Memory α) (a b : Nat) (v : α) :
    Memory.read (Memory.write m a v) b = if b = a then some v else Memory.read m b := by
  induction m with
  | nil => simp [Memory.write, Memory.read]
  | cons c rest ih =>
    obtain ⟨k, w⟩ := c
    simp only [Memory.write]
    split
    · simp [Memory.read]
    · split
      · subst_vars
        by_cases hb : b = k <;> simp [Memory.read, hb]
      · simp only [Memory.read, ih]
        by_cases hk : b = k
        · have hba : ¬ b = a := by omega
          rw [if_pos hk, if_neg hba, if_pos hk]
        · simp [hk]

/-- A read after consecutive writes: the written value inside the run, the old contents outside. -/
theorem Memory.read_writeList {α : Type} (vs : List α) (m : Memory α) (base b : Nat) :
    Memory.read (Memory.writeList m base vs) b
      = if base ≤ b ∧ b < base + vs.length then vs[b - base]? else Memory.read m b := by
  induction vs generalizing m base with
  | nil =>
    simp only [Memory.writeList, List.length_nil]
    rw [if_neg (by omega)]
  | cons v rest ih =>
    simp only [Memory.writeList, ih, Memory.read_write, List.length_cons]
    by_cases h0 : b = base
    · subst h0
      simp
    · by_cases h1 : base + 1 ≤ b ∧ b < base + 1 + rest.length
      · have h2 : base ≤ b ∧ b < base + (rest.length + 1) := by omega
        have h3 : b - base = (b - (base + 1)) + 1 := by omega
        simp [h1, h2, h3]
      · have h2 : ¬(base ≤ b ∧ b < base + (rest.length + 1)) := by omega
        rw [if_neg h1, if_neg h0, if_neg h2]

theorem Memory.risesFrom_mono {α : Type} {low low' : Nat} (h : low' ≤ low) (m : Memory α)
    (hm : Memory.risesFrom low m = true) : Memory.risesFrom low' m = true := by
  cases m with
  | nil => rfl
  | cons c rest =>
    obtain ⟨k, w⟩ := c
    simp only [Memory.risesFrom, Bool.and_eq_true, decide_eq_true_eq] at hm ⊢
    exact ⟨by omega, hm.2⟩

theorem Memory.risesFrom_write {α : Type} (m : Memory α) (low a : Nat) (v : α) (ha : low ≤ a)
    (hm : Memory.risesFrom low m = true) : Memory.risesFrom low (Memory.write m a v) = true := by
  induction m generalizing low with
  | nil => simp [Memory.write, Memory.risesFrom, ha]
  | cons c rest ih =>
    obtain ⟨k, w⟩ := c
    simp only [Memory.risesFrom, Bool.and_eq_true, decide_eq_true_eq] at hm
    simp only [Memory.write]
    split
    · simp only [Memory.risesFrom, Bool.and_eq_true, decide_eq_true_eq]
      exact ⟨ha, by omega, hm.2⟩
    · split
      · subst_vars
        simp only [Memory.risesFrom, Bool.and_eq_true, decide_eq_true_eq]
        exact ⟨ha, hm.2⟩
      · simp only [Memory.risesFrom, Bool.and_eq_true, decide_eq_true_eq]
        exact ⟨hm.1, ih (k + 1) (by omega) hm.2⟩

@[simp] theorem Memory.wf_nil {α : Type} : Memory.wf ([] : Memory α) = true := rfl

/-- A write keeps the canonical form. -/
theorem Memory.wf_write {α : Type} (m : Memory α) (a : Nat) (v : α) (hm : Memory.wf m = true) :
    Memory.wf (Memory.write m a v) = true :=
  Memory.risesFrom_write m 0 a v (Nat.zero_le a) hm

/-- Consecutive writes keep the canonical form. -/
theorem Memory.wf_writeList {α : Type} (vs : List α) (m : Memory α) (base : Nat) (hm : Memory.wf m = true) :
    Memory.wf (Memory.writeList m base vs) = true := by
  induction vs generalizing m base with
  | nil => exact hm
  | cons v rest ih => exact ih _ _ (Memory.wf_write m base v hm)

@[simp] theorem Memory.below_nil {α : Type} (cap : Nat) : Memory.below cap ([] : Memory α) = true := rfl

/-- A write below the capacity keeps the capacity bound. -/
theorem Memory.below_write {α : Type} (m : Memory α) (cap a : Nat) (v : α) (ha : a < cap)
    (hm : Memory.below cap m = true) : Memory.below cap (Memory.write m a v) = true := by
  induction m with
  | nil => simp [Memory.write, Memory.below, ha]
  | cons c rest ih =>
    obtain ⟨k, w⟩ := c
    simp only [Memory.below, List.all_cons, Bool.and_eq_true, decide_eq_true_eq] at hm ih ⊢
    simp only [Memory.write]
    split
    · simp only [List.all_cons, Bool.and_eq_true, decide_eq_true_eq]
      exact ⟨ha, hm.1, hm.2⟩
    · split
      · simp only [List.all_cons, Bool.and_eq_true, decide_eq_true_eq]
        exact ⟨ha, hm.2⟩
      · simp only [List.all_cons, Bool.and_eq_true, decide_eq_true_eq]
        exact ⟨hm.1, ih hm.2⟩

/-- Consecutive writes below the capacity keep the capacity bound. -/
theorem Memory.below_writeList {α : Type} (vs : List α) (m : Memory α) (cap base : Nat)
    (hb : base + vs.length ≤ cap) (hm : Memory.below cap m = true) :
    Memory.below cap (Memory.writeList m base vs) = true := by
  induction vs generalizing m base with
  | nil => exact hm
  | cons v rest ih =>
    simp only [List.length_cons] at hb
    exact ih _ _ (by omega) (Memory.below_write m cap base v (by omega) hm)

end Sys2Proof.Machine
end

