-- ==== Sys2Proof/Laws/State.lean ====
section
/-! SUPPORT. What each shared update does to each field of State: one lemma per field per update, true by computation, so
that no later proof unfolds a record update. -/

namespace Sys2Proof.Machine

/-! ### commandError -/

@[simp] theorem commandError_busy (e : CommandError) (s : State) : (commandError e s).busy = false := rfl
@[simp] theorem commandError_done (e : CommandError) (s : State) : (commandError e s).done = s.done := rfl
@[simp] theorem commandError_err (e : CommandError) (s : State) : (commandError e s).err = true := rfl
@[simp] theorem commandError_aerr (e : CommandError) (s : State) : (commandError e s).aerr = s.aerr := rfl
@[simp] theorem commandError_ecv (e : CommandError) (s : State) : (commandError e s).ecv = s.ecv := rfl
@[simp] theorem commandError_ieDone (e : CommandError) (s : State) : (commandError e s).ieDone = s.ieDone := rfl
@[simp] theorem commandError_ieErr (e : CommandError) (s : State) : (commandError e s).ieErr = s.ieErr := rfl
@[simp] theorem commandError_ieAerr (e : CommandError) (s : State) : (commandError e s).ieAerr = s.ieAerr := rfl
@[simp] theorem commandError_r4mode (e : CommandError) (s : State) : (commandError e s).r4mode = s.r4mode := rfl
@[simp] theorem commandError_lastCmd (e : CommandError) (s : State) : (commandError e s).lastCmd = s.lastCmd := rfl
@[simp] theorem commandError_sampledR4 (e : CommandError) (s : State) : (commandError e s).sampledR4 = s.sampledR4 := rfl
@[simp] theorem commandError_errCause (e : CommandError) (s : State) : (commandError e s).errCause = e.cause := rfl
@[simp] theorem commandError_errInfo (e : CommandError) (s : State) : (commandError e s).errInfo = e.info := rfl
@[simp] theorem commandError_aerrCause (e : CommandError) (s : State) : (commandError e s).aerrCause = s.aerrCause := rfl
@[simp] theorem commandError_aerrAddr (e : CommandError) (s : State) : (commandError e s).aerrAddr = s.aerrAddr := rfl
@[simp] theorem commandError_result (e : CommandError) (s : State) : (commandError e s).result = s.result := rfl
@[simp] theorem commandError_bufIndex (e : CommandError) (s : State) : (commandError e s).bufIndex = s.bufIndex := rfl
@[simp] theorem commandError_bufSel (e : CommandError) (s : State) : (commandError e s).bufSel = s.bufSel := rfl
@[simp] theorem commandError_paLen (e : CommandError) (s : State) : (commandError e s).paLen = s.paLen := rfl
@[simp] theorem commandError_pbLen (e : CommandError) (s : State) : (commandError e s).pbLen = s.pbLen := rfl
@[simp] theorem commandError_prLen (e : CommandError) (s : State) : (commandError e s).prLen = s.prLen := rfl
@[simp] theorem commandError_dataLenBits (e : CommandError) (s : State) : (commandError e s).dataLenBits = s.dataLenBits := rfl
@[simp] theorem commandError_cwLen (e : CommandError) (s : State) : (commandError e s).cwLen = s.cwLen := rfl
@[simp] theorem commandError_groups (e : CommandError) (s : State) : (commandError e s).groups = s.groups := rfl
@[simp] theorem commandError_matSize (e : CommandError) (s : State) : (commandError e s).matSize = s.matSize := rfl
@[simp] theorem commandError_matRow (e : CommandError) (s : State) : (commandError e s).matRow = s.matRow := rfl
@[simp] theorem commandError_matWord (e : CommandError) (s : State) : (commandError e s).matWord = s.matWord := rfl
@[simp] theorem commandError_penValid (e : CommandError) (s : State) : (commandError e s).penValid = s.penValid := rfl
@[simp] theorem commandError_selMask (e : CommandError) (s : State) : (commandError e s).selMask = s.selMask := rfl
@[simp] theorem commandError_selValid (e : CommandError) (s : State) : (commandError e s).selValid = s.selValid := rfl
@[simp] theorem commandError_penR1 (e : CommandError) (s : State) : (commandError e s).penR1 = s.penR1 := rfl
@[simp] theorem commandError_penR2 (e : CommandError) (s : State) : (commandError e s).penR2 = s.penR2 := rfl
@[simp] theorem commandError_penR3 (e : CommandError) (s : State) : (commandError e s).penR3 = s.penR3 := rfl
@[simp] theorem commandError_penR4 (e : CommandError) (s : State) : (commandError e s).penR4 = s.penR4 := rfl
@[simp] theorem commandError_pens (e : CommandError) (s : State) : (commandError e s).pens = s.pens := rfl
@[simp] theorem commandError_data (e : CommandError) (s : State) : (commandError e s).data = s.data := rfl
@[simp] theorem commandError_pa (e : CommandError) (s : State) : (commandError e s).pa = s.pa := rfl
@[simp] theorem commandError_pb (e : CommandError) (s : State) : (commandError e s).pb = s.pb := rfl
@[simp] theorem commandError_pr (e : CommandError) (s : State) : (commandError e s).pr = s.pr := rfl
@[simp] theorem commandError_cw (e : CommandError) (s : State) : (commandError e s).cw = s.cw := rfl
@[simp] theorem commandError_ec (e : CommandError) (s : State) : (commandError e s).ec = s.ec := rfl
@[simp] theorem commandError_mat (e : CommandError) (s : State) : (commandError e s).mat = s.mat := rfl
@[simp] theorem commandError_draws (e : CommandError) (s : State) : (commandError e s).draws = s.draws := rfl
@[simp] theorem commandError_host (e : CommandError) (s : State) : (commandError e s).host = s.host := rfl
@[simp] theorem commandError_turns (e : CommandError) (s : State) : (commandError e s).turns = s.turns := rfl
@[simp] theorem commandError_replies (e : CommandError) (s : State) : (commandError e s).replies = s.replies := rfl
@[simp] theorem commandError_cmdErrors (e : CommandError) (s : State) : (commandError e s).cmdErrors = e :: s.cmdErrors := rfl
@[simp] theorem commandError_accessErrors (e : CommandError) (s : State) : (commandError e s).accessErrors = s.accessErrors := rfl

/-! ### completeOk -/

@[simp] theorem completeOk_busy (s : State) : (completeOk s).busy = false := rfl
@[simp] theorem completeOk_done (s : State) : (completeOk s).done = true := rfl
@[simp] theorem completeOk_err (s : State) : (completeOk s).err = s.err := rfl
@[simp] theorem completeOk_aerr (s : State) : (completeOk s).aerr = s.aerr := rfl
@[simp] theorem completeOk_ecv (s : State) : (completeOk s).ecv = s.ecv := rfl
@[simp] theorem completeOk_ieDone (s : State) : (completeOk s).ieDone = s.ieDone := rfl
@[simp] theorem completeOk_ieErr (s : State) : (completeOk s).ieErr = s.ieErr := rfl
@[simp] theorem completeOk_ieAerr (s : State) : (completeOk s).ieAerr = s.ieAerr := rfl
@[simp] theorem completeOk_r4mode (s : State) : (completeOk s).r4mode = s.r4mode := rfl
@[simp] theorem completeOk_lastCmd (s : State) : (completeOk s).lastCmd = s.lastCmd := rfl
@[simp] theorem completeOk_sampledR4 (s : State) : (completeOk s).sampledR4 = s.sampledR4 := rfl
@[simp] theorem completeOk_errCause (s : State) : (completeOk s).errCause = s.errCause := rfl
@[simp] theorem completeOk_errInfo (s : State) : (completeOk s).errInfo = s.errInfo := rfl
@[simp] theorem completeOk_aerrCause (s : State) : (completeOk s).aerrCause = s.aerrCause := rfl
@[simp] theorem completeOk_aerrAddr (s : State) : (completeOk s).aerrAddr = s.aerrAddr := rfl
@[simp] theorem completeOk_result (s : State) : (completeOk s).result = s.result := rfl
@[simp] theorem completeOk_bufIndex (s : State) : (completeOk s).bufIndex = s.bufIndex := rfl
@[simp] theorem completeOk_bufSel (s : State) : (completeOk s).bufSel = s.bufSel := rfl
@[simp] theorem completeOk_paLen (s : State) : (completeOk s).paLen = s.paLen := rfl
@[simp] theorem completeOk_pbLen (s : State) : (completeOk s).pbLen = s.pbLen := rfl
@[simp] theorem completeOk_prLen (s : State) : (completeOk s).prLen = s.prLen := rfl
@[simp] theorem completeOk_dataLenBits (s : State) : (completeOk s).dataLenBits = s.dataLenBits := rfl
@[simp] theorem completeOk_cwLen (s : State) : (completeOk s).cwLen = s.cwLen := rfl
@[simp] theorem completeOk_groups (s : State) : (completeOk s).groups = s.groups := rfl
@[simp] theorem completeOk_matSize (s : State) : (completeOk s).matSize = s.matSize := rfl
@[simp] theorem completeOk_matRow (s : State) : (completeOk s).matRow = s.matRow := rfl
@[simp] theorem completeOk_matWord (s : State) : (completeOk s).matWord = s.matWord := rfl
@[simp] theorem completeOk_penValid (s : State) : (completeOk s).penValid = s.penValid := rfl
@[simp] theorem completeOk_selMask (s : State) : (completeOk s).selMask = s.selMask := rfl
@[simp] theorem completeOk_selValid (s : State) : (completeOk s).selValid = s.selValid := rfl
@[simp] theorem completeOk_penR1 (s : State) : (completeOk s).penR1 = s.penR1 := rfl
@[simp] theorem completeOk_penR2 (s : State) : (completeOk s).penR2 = s.penR2 := rfl
@[simp] theorem completeOk_penR3 (s : State) : (completeOk s).penR3 = s.penR3 := rfl
@[simp] theorem completeOk_penR4 (s : State) : (completeOk s).penR4 = s.penR4 := rfl
@[simp] theorem completeOk_pens (s : State) : (completeOk s).pens = s.pens := rfl
@[simp] theorem completeOk_data (s : State) : (completeOk s).data = s.data := rfl
@[simp] theorem completeOk_pa (s : State) : (completeOk s).pa = s.pa := rfl
@[simp] theorem completeOk_pb (s : State) : (completeOk s).pb = s.pb := rfl
@[simp] theorem completeOk_pr (s : State) : (completeOk s).pr = s.pr := rfl
@[simp] theorem completeOk_cw (s : State) : (completeOk s).cw = s.cw := rfl
@[simp] theorem completeOk_ec (s : State) : (completeOk s).ec = s.ec := rfl
@[simp] theorem completeOk_mat (s : State) : (completeOk s).mat = s.mat := rfl
@[simp] theorem completeOk_draws (s : State) : (completeOk s).draws = s.draws := rfl
@[simp] theorem completeOk_host (s : State) : (completeOk s).host = s.host := rfl
@[simp] theorem completeOk_turns (s : State) : (completeOk s).turns = s.turns := rfl
@[simp] theorem completeOk_replies (s : State) : (completeOk s).replies = s.replies := rfl
@[simp] theorem completeOk_cmdErrors (s : State) : (completeOk s).cmdErrors = s.cmdErrors := rfl
@[simp] theorem completeOk_accessErrors (s : State) : (completeOk s).accessErrors = s.accessErrors := rfl

/-! ### issue -/

@[simp] theorem issue_busy (w : Word) (s : State) : (issue w s).busy = true := rfl
@[simp] theorem issue_done (w : Word) (s : State) : (issue w s).done = false := rfl
@[simp] theorem issue_err (w : Word) (s : State) : (issue w s).err = false := rfl
@[simp] theorem issue_aerr (w : Word) (s : State) : (issue w s).aerr = s.aerr := rfl
@[simp] theorem issue_ecv (w : Word) (s : State) : (issue w s).ecv = s.ecv := rfl
@[simp] theorem issue_ieDone (w : Word) (s : State) : (issue w s).ieDone = s.ieDone := rfl
@[simp] theorem issue_ieErr (w : Word) (s : State) : (issue w s).ieErr = s.ieErr := rfl
@[simp] theorem issue_ieAerr (w : Word) (s : State) : (issue w s).ieAerr = s.ieAerr := rfl
@[simp] theorem issue_r4mode (w : Word) (s : State) : (issue w s).r4mode = s.r4mode := rfl
@[simp] theorem issue_lastCmd (w : Word) (s : State) : (issue w s).lastCmd = w := rfl
@[simp] theorem issue_sampledR4 (w : Word) (s : State) : (issue w s).sampledR4 = if isMaskEval w then s.r4mode else s.sampledR4 := rfl
@[simp] theorem issue_errCause (w : Word) (s : State) : (issue w s).errCause = .noError := rfl
@[simp] theorem issue_errInfo (w : Word) (s : State) : (issue w s).errInfo = 0#32 := rfl
@[simp] theorem issue_aerrCause (w : Word) (s : State) : (issue w s).aerrCause = s.aerrCause := rfl
@[simp] theorem issue_aerrAddr (w : Word) (s : State) : (issue w s).aerrAddr = s.aerrAddr := rfl
@[simp] theorem issue_result (w : Word) (s : State) : (issue w s).result = s.result := rfl
@[simp] theorem issue_bufIndex (w : Word) (s : State) : (issue w s).bufIndex = s.bufIndex := rfl
@[simp] theorem issue_bufSel (w : Word) (s : State) : (issue w s).bufSel = s.bufSel := rfl
@[simp] theorem issue_paLen (w : Word) (s : State) : (issue w s).paLen = s.paLen := rfl
@[simp] theorem issue_pbLen (w : Word) (s : State) : (issue w s).pbLen = s.pbLen := rfl
@[simp] theorem issue_prLen (w : Word) (s : State) : (issue w s).prLen = s.prLen := rfl
@[simp] theorem issue_dataLenBits (w : Word) (s : State) : (issue w s).dataLenBits = s.dataLenBits := rfl
@[simp] theorem issue_cwLen (w : Word) (s : State) : (issue w s).cwLen = s.cwLen := rfl
@[simp] theorem issue_groups (w : Word) (s : State) : (issue w s).groups = s.groups := rfl
@[simp] theorem issue_matSize (w : Word) (s : State) : (issue w s).matSize = s.matSize := rfl
@[simp] theorem issue_matRow (w : Word) (s : State) : (issue w s).matRow = s.matRow := rfl
@[simp] theorem issue_matWord (w : Word) (s : State) : (issue w s).matWord = s.matWord := rfl
@[simp] theorem issue_penValid (w : Word) (s : State) : (issue w s).penValid = s.penValid := rfl
@[simp] theorem issue_selMask (w : Word) (s : State) : (issue w s).selMask = s.selMask := rfl
@[simp] theorem issue_selValid (w : Word) (s : State) : (issue w s).selValid = s.selValid := rfl
@[simp] theorem issue_penR1 (w : Word) (s : State) : (issue w s).penR1 = s.penR1 := rfl
@[simp] theorem issue_penR2 (w : Word) (s : State) : (issue w s).penR2 = s.penR2 := rfl
@[simp] theorem issue_penR3 (w : Word) (s : State) : (issue w s).penR3 = s.penR3 := rfl
@[simp] theorem issue_penR4 (w : Word) (s : State) : (issue w s).penR4 = s.penR4 := rfl
@[simp] theorem issue_pens (w : Word) (s : State) : (issue w s).pens = s.pens := rfl
@[simp] theorem issue_data (w : Word) (s : State) : (issue w s).data = s.data := rfl
@[simp] theorem issue_pa (w : Word) (s : State) : (issue w s).pa = s.pa := rfl
@[simp] theorem issue_pb (w : Word) (s : State) : (issue w s).pb = s.pb := rfl
@[simp] theorem issue_pr (w : Word) (s : State) : (issue w s).pr = s.pr := rfl
@[simp] theorem issue_cw (w : Word) (s : State) : (issue w s).cw = s.cw := rfl
@[simp] theorem issue_ec (w : Word) (s : State) : (issue w s).ec = s.ec := rfl
@[simp] theorem issue_mat (w : Word) (s : State) : (issue w s).mat = s.mat := rfl
@[simp] theorem issue_draws (w : Word) (s : State) : (issue w s).draws = s.draws := rfl
@[simp] theorem issue_host (w : Word) (s : State) : (issue w s).host = s.host := rfl
@[simp] theorem issue_turns (w : Word) (s : State) : (issue w s).turns = s.turns := rfl
@[simp] theorem issue_replies (w : Word) (s : State) : (issue w s).replies = s.replies := rfl
@[simp] theorem issue_cmdErrors (w : Word) (s : State) : (issue w s).cmdErrors = s.cmdErrors := rfl
@[simp] theorem issue_accessErrors (w : Word) (s : State) : (issue w s).accessErrors = s.accessErrors := rfl

/-! ### accessError -/

@[simp] theorem accessError_busy (c : AerrCause) (o : BitVec 12) (s : State) : (accessError c o s).busy = s.busy := rfl
@[simp] theorem accessError_done (c : AerrCause) (o : BitVec 12) (s : State) : (accessError c o s).done = s.done := rfl
@[simp] theorem accessError_err (c : AerrCause) (o : BitVec 12) (s : State) : (accessError c o s).err = s.err := rfl
@[simp] theorem accessError_aerr (c : AerrCause) (o : BitVec 12) (s : State) : (accessError c o s).aerr = true := rfl
@[simp] theorem accessError_ecv (c : AerrCause) (o : BitVec 12) (s : State) : (accessError c o s).ecv = s.ecv := rfl
@[simp] theorem accessError_ieDone (c : AerrCause) (o : BitVec 12) (s : State) : (accessError c o s).ieDone = s.ieDone := rfl
@[simp] theorem accessError_ieErr (c : AerrCause) (o : BitVec 12) (s : State) : (accessError c o s).ieErr = s.ieErr := rfl
@[simp] theorem accessError_ieAerr (c : AerrCause) (o : BitVec 12) (s : State) : (accessError c o s).ieAerr = s.ieAerr := rfl
@[simp] theorem accessError_r4mode (c : AerrCause) (o : BitVec 12) (s : State) : (accessError c o s).r4mode = s.r4mode := rfl
@[simp] theorem accessError_lastCmd (c : AerrCause) (o : BitVec 12) (s : State) : (accessError c o s).lastCmd = s.lastCmd := rfl
@[simp] theorem accessError_sampledR4 (c : AerrCause) (o : BitVec 12) (s : State) : (accessError c o s).sampledR4 = s.sampledR4 := rfl
@[simp] theorem accessError_errCause (c : AerrCause) (o : BitVec 12) (s : State) : (accessError c o s).errCause = s.errCause := rfl
@[simp] theorem accessError_errInfo (c : AerrCause) (o : BitVec 12) (s : State) : (accessError c o s).errInfo = s.errInfo := rfl
@[simp] theorem accessError_aerrCause (c : AerrCause) (o : BitVec 12) (s : State) : (accessError c o s).aerrCause = c := rfl
@[simp] theorem accessError_aerrAddr (c : AerrCause) (o : BitVec 12) (s : State) : (accessError c o s).aerrAddr = o := rfl
@[simp] theorem accessError_result (c : AerrCause) (o : BitVec 12) (s : State) : (accessError c o s).result = s.result := rfl
@[simp] theorem accessError_bufIndex (c : AerrCause) (o : BitVec 12) (s : State) : (accessError c o s).bufIndex = s.bufIndex := rfl
@[simp] theorem accessError_bufSel (c : AerrCause) (o : BitVec 12) (s : State) : (accessError c o s).bufSel = s.bufSel := rfl
@[simp] theorem accessError_paLen (c : AerrCause) (o : BitVec 12) (s : State) : (accessError c o s).paLen = s.paLen := rfl
@[simp] theorem accessError_pbLen (c : AerrCause) (o : BitVec 12) (s : State) : (accessError c o s).pbLen = s.pbLen := rfl
@[simp] theorem accessError_prLen (c : AerrCause) (o : BitVec 12) (s : State) : (accessError c o s).prLen = s.prLen := rfl
@[simp] theorem accessError_dataLenBits (c : AerrCause) (o : BitVec 12) (s : State) : (accessError c o s).dataLenBits = s.dataLenBits := rfl
@[simp] theorem accessError_cwLen (c : AerrCause) (o : BitVec 12) (s : State) : (accessError c o s).cwLen = s.cwLen := rfl
@[simp] theorem accessError_groups (c : AerrCause) (o : BitVec 12) (s : State) : (accessError c o s).groups = s.groups := rfl
@[simp] theorem accessError_matSize (c : AerrCause) (o : BitVec 12) (s : State) : (accessError c o s).matSize = s.matSize := rfl
@[simp] theorem accessError_matRow (c : AerrCause) (o : BitVec 12) (s : State) : (accessError c o s).matRow = s.matRow := rfl
@[simp] theorem accessError_matWord (c : AerrCause) (o : BitVec 12) (s : State) : (accessError c o s).matWord = s.matWord := rfl
@[simp] theorem accessError_penValid (c : AerrCause) (o : BitVec 12) (s : State) : (accessError c o s).penValid = s.penValid := rfl
@[simp] theorem accessError_selMask (c : AerrCause) (o : BitVec 12) (s : State) : (accessError c o s).selMask = s.selMask := rfl
@[simp] theorem accessError_selValid (c : AerrCause) (o : BitVec 12) (s : State) : (accessError c o s).selValid = s.selValid := rfl
@[simp] theorem accessError_penR1 (c : AerrCause) (o : BitVec 12) (s : State) : (accessError c o s).penR1 = s.penR1 := rfl
@[simp] theorem accessError_penR2 (c : AerrCause) (o : BitVec 12) (s : State) : (accessError c o s).penR2 = s.penR2 := rfl
@[simp] theorem accessError_penR3 (c : AerrCause) (o : BitVec 12) (s : State) : (accessError c o s).penR3 = s.penR3 := rfl
@[simp] theorem accessError_penR4 (c : AerrCause) (o : BitVec 12) (s : State) : (accessError c o s).penR4 = s.penR4 := rfl
@[simp] theorem accessError_pens (c : AerrCause) (o : BitVec 12) (s : State) : (accessError c o s).pens = s.pens := rfl
@[simp] theorem accessError_data (c : AerrCause) (o : BitVec 12) (s : State) : (accessError c o s).data = s.data := rfl
@[simp] theorem accessError_pa (c : AerrCause) (o : BitVec 12) (s : State) : (accessError c o s).pa = s.pa := rfl
@[simp] theorem accessError_pb (c : AerrCause) (o : BitVec 12) (s : State) : (accessError c o s).pb = s.pb := rfl
@[simp] theorem accessError_pr (c : AerrCause) (o : BitVec 12) (s : State) : (accessError c o s).pr = s.pr := rfl
@[simp] theorem accessError_cw (c : AerrCause) (o : BitVec 12) (s : State) : (accessError c o s).cw = s.cw := rfl
@[simp] theorem accessError_ec (c : AerrCause) (o : BitVec 12) (s : State) : (accessError c o s).ec = s.ec := rfl
@[simp] theorem accessError_mat (c : AerrCause) (o : BitVec 12) (s : State) : (accessError c o s).mat = s.mat := rfl
@[simp] theorem accessError_draws (c : AerrCause) (o : BitVec 12) (s : State) : (accessError c o s).draws = s.draws := rfl
@[simp] theorem accessError_host (c : AerrCause) (o : BitVec 12) (s : State) : (accessError c o s).host = s.host := rfl
@[simp] theorem accessError_turns (c : AerrCause) (o : BitVec 12) (s : State) : (accessError c o s).turns = s.turns := rfl
@[simp] theorem accessError_replies (c : AerrCause) (o : BitVec 12) (s : State) : (accessError c o s).replies = s.replies := rfl
@[simp] theorem accessError_cmdErrors (c : AerrCause) (o : BitVec 12) (s : State) : (accessError c o s).cmdErrors = s.cmdErrors := rfl
@[simp] theorem accessError_accessErrors (c : AerrCause) (o : BitVec 12) (s : State) : (accessError c o s).accessErrors = ⟨c, o⟩ :: s.accessErrors := rfl

/-! ### takeTurn -/

@[simp] theorem takeTurn_busy (s : State) : (takeTurn s).busy = s.busy := rfl
@[simp] theorem takeTurn_done (s : State) : (takeTurn s).done = s.done := rfl
@[simp] theorem takeTurn_err (s : State) : (takeTurn s).err = s.err := rfl
@[simp] theorem takeTurn_aerr (s : State) : (takeTurn s).aerr = s.aerr := rfl
@[simp] theorem takeTurn_ecv (s : State) : (takeTurn s).ecv = s.ecv := rfl
@[simp] theorem takeTurn_ieDone (s : State) : (takeTurn s).ieDone = s.ieDone := rfl
@[simp] theorem takeTurn_ieErr (s : State) : (takeTurn s).ieErr = s.ieErr := rfl
@[simp] theorem takeTurn_ieAerr (s : State) : (takeTurn s).ieAerr = s.ieAerr := rfl
@[simp] theorem takeTurn_r4mode (s : State) : (takeTurn s).r4mode = s.r4mode := rfl
@[simp] theorem takeTurn_lastCmd (s : State) : (takeTurn s).lastCmd = s.lastCmd := rfl
@[simp] theorem takeTurn_sampledR4 (s : State) : (takeTurn s).sampledR4 = s.sampledR4 := rfl
@[simp] theorem takeTurn_errCause (s : State) : (takeTurn s).errCause = s.errCause := rfl
@[simp] theorem takeTurn_errInfo (s : State) : (takeTurn s).errInfo = s.errInfo := rfl
@[simp] theorem takeTurn_aerrCause (s : State) : (takeTurn s).aerrCause = s.aerrCause := rfl
@[simp] theorem takeTurn_aerrAddr (s : State) : (takeTurn s).aerrAddr = s.aerrAddr := rfl
@[simp] theorem takeTurn_result (s : State) : (takeTurn s).result = s.result := rfl
@[simp] theorem takeTurn_bufIndex (s : State) : (takeTurn s).bufIndex = s.bufIndex := rfl
@[simp] theorem takeTurn_bufSel (s : State) : (takeTurn s).bufSel = s.bufSel := rfl
@[simp] theorem takeTurn_paLen (s : State) : (takeTurn s).paLen = s.paLen := rfl
@[simp] theorem takeTurn_pbLen (s : State) : (takeTurn s).pbLen = s.pbLen := rfl
@[simp] theorem takeTurn_prLen (s : State) : (takeTurn s).prLen = s.prLen := rfl
@[simp] theorem takeTurn_dataLenBits (s : State) : (takeTurn s).dataLenBits = s.dataLenBits := rfl
@[simp] theorem takeTurn_cwLen (s : State) : (takeTurn s).cwLen = s.cwLen := rfl
@[simp] theorem takeTurn_groups (s : State) : (takeTurn s).groups = s.groups := rfl
@[simp] theorem takeTurn_matSize (s : State) : (takeTurn s).matSize = s.matSize := rfl
@[simp] theorem takeTurn_matRow (s : State) : (takeTurn s).matRow = s.matRow := rfl
@[simp] theorem takeTurn_matWord (s : State) : (takeTurn s).matWord = s.matWord := rfl
@[simp] theorem takeTurn_penValid (s : State) : (takeTurn s).penValid = s.penValid := rfl
@[simp] theorem takeTurn_selMask (s : State) : (takeTurn s).selMask = s.selMask := rfl
@[simp] theorem takeTurn_selValid (s : State) : (takeTurn s).selValid = s.selValid := rfl
@[simp] theorem takeTurn_penR1 (s : State) : (takeTurn s).penR1 = s.penR1 := rfl
@[simp] theorem takeTurn_penR2 (s : State) : (takeTurn s).penR2 = s.penR2 := rfl
@[simp] theorem takeTurn_penR3 (s : State) : (takeTurn s).penR3 = s.penR3 := rfl
@[simp] theorem takeTurn_penR4 (s : State) : (takeTurn s).penR4 = s.penR4 := rfl
@[simp] theorem takeTurn_pens (s : State) : (takeTurn s).pens = s.pens := rfl
@[simp] theorem takeTurn_data (s : State) : (takeTurn s).data = s.data := rfl
@[simp] theorem takeTurn_pa (s : State) : (takeTurn s).pa = s.pa := rfl
@[simp] theorem takeTurn_pb (s : State) : (takeTurn s).pb = s.pb := rfl
@[simp] theorem takeTurn_pr (s : State) : (takeTurn s).pr = s.pr := rfl
@[simp] theorem takeTurn_cw (s : State) : (takeTurn s).cw = s.cw := rfl
@[simp] theorem takeTurn_ec (s : State) : (takeTurn s).ec = s.ec := rfl
@[simp] theorem takeTurn_mat (s : State) : (takeTurn s).mat = s.mat := rfl
@[simp] theorem takeTurn_draws (s : State) : (takeTurn s).draws = s.draws := rfl
@[simp] theorem takeTurn_host (s : State) : (takeTurn s).host = s.host := rfl
@[simp] theorem takeTurn_turns (s : State) : (takeTurn s).turns = s.turns.tail := rfl
@[simp] theorem takeTurn_replies (s : State) : (takeTurn s).replies = s.replies := rfl
@[simp] theorem takeTurn_cmdErrors (s : State) : (takeTurn s).cmdErrors = s.cmdErrors := rfl
@[simp] theorem takeTurn_accessErrors (s : State) : (takeTurn s).accessErrors = s.accessErrors := rfl

/-! ### noteReply -/

@[simp] theorem noteReply_busy (r : State × Word) : (noteReply r).busy = r.1.busy := rfl
@[simp] theorem noteReply_done (r : State × Word) : (noteReply r).done = r.1.done := rfl
@[simp] theorem noteReply_err (r : State × Word) : (noteReply r).err = r.1.err := rfl
@[simp] theorem noteReply_aerr (r : State × Word) : (noteReply r).aerr = r.1.aerr := rfl
@[simp] theorem noteReply_ecv (r : State × Word) : (noteReply r).ecv = r.1.ecv := rfl
@[simp] theorem noteReply_ieDone (r : State × Word) : (noteReply r).ieDone = r.1.ieDone := rfl
@[simp] theorem noteReply_ieErr (r : State × Word) : (noteReply r).ieErr = r.1.ieErr := rfl
@[simp] theorem noteReply_ieAerr (r : State × Word) : (noteReply r).ieAerr = r.1.ieAerr := rfl
@[simp] theorem noteReply_r4mode (r : State × Word) : (noteReply r).r4mode = r.1.r4mode := rfl
@[simp] theorem noteReply_lastCmd (r : State × Word) : (noteReply r).lastCmd = r.1.lastCmd := rfl
@[simp] theorem noteReply_sampledR4 (r : State × Word) : (noteReply r).sampledR4 = r.1.sampledR4 := rfl
@[simp] theorem noteReply_errCause (r : State × Word) : (noteReply r).errCause = r.1.errCause := rfl
@[simp] theorem noteReply_errInfo (r : State × Word) : (noteReply r).errInfo = r.1.errInfo := rfl
@[simp] theorem noteReply_aerrCause (r : State × Word) : (noteReply r).aerrCause = r.1.aerrCause := rfl
@[simp] theorem noteReply_aerrAddr (r : State × Word) : (noteReply r).aerrAddr = r.1.aerrAddr := rfl
@[simp] theorem noteReply_result (r : State × Word) : (noteReply r).result = r.1.result := rfl
@[simp] theorem noteReply_bufIndex (r : State × Word) : (noteReply r).bufIndex = r.1.bufIndex := rfl
@[simp] theorem noteReply_bufSel (r : State × Word) : (noteReply r).bufSel = r.1.bufSel := rfl
@[simp] theorem noteReply_paLen (r : State × Word) : (noteReply r).paLen = r.1.paLen := rfl
@[simp] theorem noteReply_pbLen (r : State × Word) : (noteReply r).pbLen = r.1.pbLen := rfl
@[simp] theorem noteReply_prLen (r : State × Word) : (noteReply r).prLen = r.1.prLen := rfl
@[simp] theorem noteReply_dataLenBits (r : State × Word) : (noteReply r).dataLenBits = r.1.dataLenBits := rfl
@[simp] theorem noteReply_cwLen (r : State × Word) : (noteReply r).cwLen = r.1.cwLen := rfl
@[simp] theorem noteReply_groups (r : State × Word) : (noteReply r).groups = r.1.groups := rfl
@[simp] theorem noteReply_matSize (r : State × Word) : (noteReply r).matSize = r.1.matSize := rfl
@[simp] theorem noteReply_matRow (r : State × Word) : (noteReply r).matRow = r.1.matRow := rfl
@[simp] theorem noteReply_matWord (r : State × Word) : (noteReply r).matWord = r.1.matWord := rfl
@[simp] theorem noteReply_penValid (r : State × Word) : (noteReply r).penValid = r.1.penValid := rfl
@[simp] theorem noteReply_selMask (r : State × Word) : (noteReply r).selMask = r.1.selMask := rfl
@[simp] theorem noteReply_selValid (r : State × Word) : (noteReply r).selValid = r.1.selValid := rfl
@[simp] theorem noteReply_penR1 (r : State × Word) : (noteReply r).penR1 = r.1.penR1 := rfl
@[simp] theorem noteReply_penR2 (r : State × Word) : (noteReply r).penR2 = r.1.penR2 := rfl
@[simp] theorem noteReply_penR3 (r : State × Word) : (noteReply r).penR3 = r.1.penR3 := rfl
@[simp] theorem noteReply_penR4 (r : State × Word) : (noteReply r).penR4 = r.1.penR4 := rfl
@[simp] theorem noteReply_pens (r : State × Word) : (noteReply r).pens = r.1.pens := rfl
@[simp] theorem noteReply_data (r : State × Word) : (noteReply r).data = r.1.data := rfl
@[simp] theorem noteReply_pa (r : State × Word) : (noteReply r).pa = r.1.pa := rfl
@[simp] theorem noteReply_pb (r : State × Word) : (noteReply r).pb = r.1.pb := rfl
@[simp] theorem noteReply_pr (r : State × Word) : (noteReply r).pr = r.1.pr := rfl
@[simp] theorem noteReply_cw (r : State × Word) : (noteReply r).cw = r.1.cw := rfl
@[simp] theorem noteReply_ec (r : State × Word) : (noteReply r).ec = r.1.ec := rfl
@[simp] theorem noteReply_mat (r : State × Word) : (noteReply r).mat = r.1.mat := rfl
@[simp] theorem noteReply_draws (r : State × Word) : (noteReply r).draws = r.1.draws := rfl
@[simp] theorem noteReply_host (r : State × Word) : (noteReply r).host = r.1.host := rfl
@[simp] theorem noteReply_turns (r : State × Word) : (noteReply r).turns = r.1.turns := rfl
@[simp] theorem noteReply_replies (r : State × Word) : (noteReply r).replies = r.2 :: r.1.replies := rfl
@[simp] theorem noteReply_cmdErrors (r : State × Word) : (noteReply r).cmdErrors = r.1.cmdErrors := rfl
@[simp] theorem noteReply_accessErrors (r : State × Word) : (noteReply r).accessErrors = r.1.accessErrors := rfl

/-! ### advanceBuf -/

@[simp] theorem advanceBuf_busy (s : State) : (advanceBuf s).busy = s.busy := rfl
@[simp] theorem advanceBuf_done (s : State) : (advanceBuf s).done = s.done := rfl
@[simp] theorem advanceBuf_err (s : State) : (advanceBuf s).err = s.err := rfl
@[simp] theorem advanceBuf_aerr (s : State) : (advanceBuf s).aerr = s.aerr := rfl
@[simp] theorem advanceBuf_ecv (s : State) : (advanceBuf s).ecv = s.ecv := rfl
@[simp] theorem advanceBuf_ieDone (s : State) : (advanceBuf s).ieDone = s.ieDone := rfl
@[simp] theorem advanceBuf_ieErr (s : State) : (advanceBuf s).ieErr = s.ieErr := rfl
@[simp] theorem advanceBuf_ieAerr (s : State) : (advanceBuf s).ieAerr = s.ieAerr := rfl
@[simp] theorem advanceBuf_r4mode (s : State) : (advanceBuf s).r4mode = s.r4mode := rfl
@[simp] theorem advanceBuf_lastCmd (s : State) : (advanceBuf s).lastCmd = s.lastCmd := rfl
@[simp] theorem advanceBuf_sampledR4 (s : State) : (advanceBuf s).sampledR4 = s.sampledR4 := rfl
@[simp] theorem advanceBuf_errCause (s : State) : (advanceBuf s).errCause = s.errCause := rfl
@[simp] theorem advanceBuf_errInfo (s : State) : (advanceBuf s).errInfo = s.errInfo := rfl
@[simp] theorem advanceBuf_aerrCause (s : State) : (advanceBuf s).aerrCause = s.aerrCause := rfl
@[simp] theorem advanceBuf_aerrAddr (s : State) : (advanceBuf s).aerrAddr = s.aerrAddr := rfl
@[simp] theorem advanceBuf_result (s : State) : (advanceBuf s).result = s.result := rfl
@[simp] theorem advanceBuf_bufIndex (s : State) : (advanceBuf s).bufIndex = s.bufIndex + 1#16 := rfl
@[simp] theorem advanceBuf_bufSel (s : State) : (advanceBuf s).bufSel = s.bufSel := rfl
@[simp] theorem advanceBuf_paLen (s : State) : (advanceBuf s).paLen = s.paLen := rfl
@[simp] theorem advanceBuf_pbLen (s : State) : (advanceBuf s).pbLen = s.pbLen := rfl
@[simp] theorem advanceBuf_prLen (s : State) : (advanceBuf s).prLen = s.prLen := rfl
@[simp] theorem advanceBuf_dataLenBits (s : State) : (advanceBuf s).dataLenBits = s.dataLenBits := rfl
@[simp] theorem advanceBuf_cwLen (s : State) : (advanceBuf s).cwLen = s.cwLen := rfl
@[simp] theorem advanceBuf_groups (s : State) : (advanceBuf s).groups = s.groups := rfl
@[simp] theorem advanceBuf_matSize (s : State) : (advanceBuf s).matSize = s.matSize := rfl
@[simp] theorem advanceBuf_matRow (s : State) : (advanceBuf s).matRow = s.matRow := rfl
@[simp] theorem advanceBuf_matWord (s : State) : (advanceBuf s).matWord = s.matWord := rfl
@[simp] theorem advanceBuf_penValid (s : State) : (advanceBuf s).penValid = s.penValid := rfl
@[simp] theorem advanceBuf_selMask (s : State) : (advanceBuf s).selMask = s.selMask := rfl
@[simp] theorem advanceBuf_selValid (s : State) : (advanceBuf s).selValid = s.selValid := rfl
@[simp] theorem advanceBuf_penR1 (s : State) : (advanceBuf s).penR1 = s.penR1 := rfl
@[simp] theorem advanceBuf_penR2 (s : State) : (advanceBuf s).penR2 = s.penR2 := rfl
@[simp] theorem advanceBuf_penR3 (s : State) : (advanceBuf s).penR3 = s.penR3 := rfl
@[simp] theorem advanceBuf_penR4 (s : State) : (advanceBuf s).penR4 = s.penR4 := rfl
@[simp] theorem advanceBuf_pens (s : State) : (advanceBuf s).pens = s.pens := rfl
@[simp] theorem advanceBuf_data (s : State) : (advanceBuf s).data = s.data := rfl
@[simp] theorem advanceBuf_pa (s : State) : (advanceBuf s).pa = s.pa := rfl
@[simp] theorem advanceBuf_pb (s : State) : (advanceBuf s).pb = s.pb := rfl
@[simp] theorem advanceBuf_pr (s : State) : (advanceBuf s).pr = s.pr := rfl
@[simp] theorem advanceBuf_cw (s : State) : (advanceBuf s).cw = s.cw := rfl
@[simp] theorem advanceBuf_ec (s : State) : (advanceBuf s).ec = s.ec := rfl
@[simp] theorem advanceBuf_mat (s : State) : (advanceBuf s).mat = s.mat := rfl
@[simp] theorem advanceBuf_draws (s : State) : (advanceBuf s).draws = s.draws := rfl
@[simp] theorem advanceBuf_host (s : State) : (advanceBuf s).host = s.host := rfl
@[simp] theorem advanceBuf_turns (s : State) : (advanceBuf s).turns = s.turns := rfl
@[simp] theorem advanceBuf_replies (s : State) : (advanceBuf s).replies = s.replies := rfl
@[simp] theorem advanceBuf_cmdErrors (s : State) : (advanceBuf s).cmdErrors = s.cmdErrors := rfl
@[simp] theorem advanceBuf_accessErrors (s : State) : (advanceBuf s).accessErrors = s.accessErrors := rfl

/-! ### deviceReset -/

@[simp] theorem deviceReset_busy (s : State) : (deviceReset s).busy = State.reset.busy := rfl
@[simp] theorem deviceReset_done (s : State) : (deviceReset s).done = State.reset.done := rfl
@[simp] theorem deviceReset_err (s : State) : (deviceReset s).err = State.reset.err := rfl
@[simp] theorem deviceReset_aerr (s : State) : (deviceReset s).aerr = State.reset.aerr := rfl
@[simp] theorem deviceReset_ecv (s : State) : (deviceReset s).ecv = State.reset.ecv := rfl
@[simp] theorem deviceReset_ieDone (s : State) : (deviceReset s).ieDone = State.reset.ieDone := rfl
@[simp] theorem deviceReset_ieErr (s : State) : (deviceReset s).ieErr = State.reset.ieErr := rfl
@[simp] theorem deviceReset_ieAerr (s : State) : (deviceReset s).ieAerr = State.reset.ieAerr := rfl
@[simp] theorem deviceReset_r4mode (s : State) : (deviceReset s).r4mode = State.reset.r4mode := rfl
@[simp] theorem deviceReset_lastCmd (s : State) : (deviceReset s).lastCmd = State.reset.lastCmd := rfl
@[simp] theorem deviceReset_sampledR4 (s : State) : (deviceReset s).sampledR4 = State.reset.sampledR4 := rfl
@[simp] theorem deviceReset_errCause (s : State) : (deviceReset s).errCause = State.reset.errCause := rfl
@[simp] theorem deviceReset_errInfo (s : State) : (deviceReset s).errInfo = State.reset.errInfo := rfl
@[simp] theorem deviceReset_aerrCause (s : State) : (deviceReset s).aerrCause = State.reset.aerrCause := rfl
@[simp] theorem deviceReset_aerrAddr (s : State) : (deviceReset s).aerrAddr = State.reset.aerrAddr := rfl
@[simp] theorem deviceReset_result (s : State) : (deviceReset s).result = State.reset.result := rfl
@[simp] theorem deviceReset_bufIndex (s : State) : (deviceReset s).bufIndex = State.reset.bufIndex := rfl
@[simp] theorem deviceReset_bufSel (s : State) : (deviceReset s).bufSel = State.reset.bufSel := rfl
@[simp] theorem deviceReset_paLen (s : State) : (deviceReset s).paLen = State.reset.paLen := rfl
@[simp] theorem deviceReset_pbLen (s : State) : (deviceReset s).pbLen = State.reset.pbLen := rfl
@[simp] theorem deviceReset_prLen (s : State) : (deviceReset s).prLen = State.reset.prLen := rfl
@[simp] theorem deviceReset_dataLenBits (s : State) : (deviceReset s).dataLenBits = State.reset.dataLenBits := rfl
@[simp] theorem deviceReset_cwLen (s : State) : (deviceReset s).cwLen = State.reset.cwLen := rfl
@[simp] theorem deviceReset_groups (s : State) : (deviceReset s).groups = State.reset.groups := rfl
@[simp] theorem deviceReset_matSize (s : State) : (deviceReset s).matSize = State.reset.matSize := rfl
@[simp] theorem deviceReset_matRow (s : State) : (deviceReset s).matRow = State.reset.matRow := rfl
@[simp] theorem deviceReset_matWord (s : State) : (deviceReset s).matWord = State.reset.matWord := rfl
@[simp] theorem deviceReset_penValid (s : State) : (deviceReset s).penValid = State.reset.penValid := rfl
@[simp] theorem deviceReset_selMask (s : State) : (deviceReset s).selMask = State.reset.selMask := rfl
@[simp] theorem deviceReset_selValid (s : State) : (deviceReset s).selValid = State.reset.selValid := rfl
@[simp] theorem deviceReset_penR1 (s : State) : (deviceReset s).penR1 = State.reset.penR1 := rfl
@[simp] theorem deviceReset_penR2 (s : State) : (deviceReset s).penR2 = State.reset.penR2 := rfl
@[simp] theorem deviceReset_penR3 (s : State) : (deviceReset s).penR3 = State.reset.penR3 := rfl
@[simp] theorem deviceReset_penR4 (s : State) : (deviceReset s).penR4 = State.reset.penR4 := rfl
@[simp] theorem deviceReset_pens (s : State) : (deviceReset s).pens = State.reset.pens := rfl
@[simp] theorem deviceReset_data (s : State) : (deviceReset s).data = State.reset.data := rfl
@[simp] theorem deviceReset_pa (s : State) : (deviceReset s).pa = State.reset.pa := rfl
@[simp] theorem deviceReset_pb (s : State) : (deviceReset s).pb = State.reset.pb := rfl
@[simp] theorem deviceReset_pr (s : State) : (deviceReset s).pr = State.reset.pr := rfl
@[simp] theorem deviceReset_cw (s : State) : (deviceReset s).cw = State.reset.cw := rfl
@[simp] theorem deviceReset_ec (s : State) : (deviceReset s).ec = State.reset.ec := rfl
@[simp] theorem deviceReset_mat (s : State) : (deviceReset s).mat = State.reset.mat := rfl
@[simp] theorem deviceReset_draws (s : State) : (deviceReset s).draws = s.draws + 1 := rfl
@[simp] theorem deviceReset_host (s : State) : (deviceReset s).host = s.host := rfl
@[simp] theorem deviceReset_turns (s : State) : (deviceReset s).turns = s.turns := rfl
@[simp] theorem deviceReset_replies (s : State) : (deviceReset s).replies = s.replies := rfl
@[simp] theorem deviceReset_cmdErrors (s : State) : (deviceReset s).cmdErrors = s.cmdErrors := rfl
@[simp] theorem deviceReset_accessErrors (s : State) : (deviceReset s).accessErrors = s.accessErrors := rfl

/-! ### writeResult -/

@[simp] theorem writeResult_busy (v : Nat) (s : State) : (writeResult v s).busy = s.busy := rfl
@[simp] theorem writeResult_done (v : Nat) (s : State) : (writeResult v s).done = s.done := rfl
@[simp] theorem writeResult_err (v : Nat) (s : State) : (writeResult v s).err = s.err := rfl
@[simp] theorem writeResult_aerr (v : Nat) (s : State) : (writeResult v s).aerr = s.aerr := rfl
@[simp] theorem writeResult_ecv (v : Nat) (s : State) : (writeResult v s).ecv = s.ecv := rfl
@[simp] theorem writeResult_ieDone (v : Nat) (s : State) : (writeResult v s).ieDone = s.ieDone := rfl
@[simp] theorem writeResult_ieErr (v : Nat) (s : State) : (writeResult v s).ieErr = s.ieErr := rfl
@[simp] theorem writeResult_ieAerr (v : Nat) (s : State) : (writeResult v s).ieAerr = s.ieAerr := rfl
@[simp] theorem writeResult_r4mode (v : Nat) (s : State) : (writeResult v s).r4mode = s.r4mode := rfl
@[simp] theorem writeResult_lastCmd (v : Nat) (s : State) : (writeResult v s).lastCmd = s.lastCmd := rfl
@[simp] theorem writeResult_sampledR4 (v : Nat) (s : State) : (writeResult v s).sampledR4 = s.sampledR4 := rfl
@[simp] theorem writeResult_errCause (v : Nat) (s : State) : (writeResult v s).errCause = s.errCause := rfl
@[simp] theorem writeResult_errInfo (v : Nat) (s : State) : (writeResult v s).errInfo = s.errInfo := rfl
@[simp] theorem writeResult_aerrCause (v : Nat) (s : State) : (writeResult v s).aerrCause = s.aerrCause := rfl
@[simp] theorem writeResult_aerrAddr (v : Nat) (s : State) : (writeResult v s).aerrAddr = s.aerrAddr := rfl
@[simp] theorem writeResult_result (v : Nat) (s : State) : (writeResult v s).result = BitVec.ofNat 32 v := rfl
@[simp] theorem writeResult_bufIndex (v : Nat) (s : State) : (writeResult v s).bufIndex = s.bufIndex := rfl
@[simp] theorem writeResult_bufSel (v : Nat) (s : State) : (writeResult v s).bufSel = s.bufSel := rfl
@[simp] theorem writeResult_paLen (v : Nat) (s : State) : (writeResult v s).paLen = s.paLen := rfl
@[simp] theorem writeResult_pbLen (v : Nat) (s : State) : (writeResult v s).pbLen = s.pbLen := rfl
@[simp] theorem writeResult_prLen (v : Nat) (s : State) : (writeResult v s).prLen = s.prLen := rfl
@[simp] theorem writeResult_dataLenBits (v : Nat) (s : State) : (writeResult v s).dataLenBits = s.dataLenBits := rfl
@[simp] theorem writeResult_cwLen (v : Nat) (s : State) : (writeResult v s).cwLen = s.cwLen := rfl
@[simp] theorem writeResult_groups (v : Nat) (s : State) : (writeResult v s).groups = s.groups := rfl
@[simp] theorem writeResult_matSize (v : Nat) (s : State) : (writeResult v s).matSize = s.matSize := rfl
@[simp] theorem writeResult_matRow (v : Nat) (s : State) : (writeResult v s).matRow = s.matRow := rfl
@[simp] theorem writeResult_matWord (v : Nat) (s : State) : (writeResult v s).matWord = s.matWord := rfl
@[simp] theorem writeResult_penValid (v : Nat) (s : State) : (writeResult v s).penValid = s.penValid := rfl
@[simp] theorem writeResult_selMask (v : Nat) (s : State) : (writeResult v s).selMask = s.selMask := rfl
@[simp] theorem writeResult_selValid (v : Nat) (s : State) : (writeResult v s).selValid = s.selValid := rfl
@[simp] theorem writeResult_penR1 (v : Nat) (s : State) : (writeResult v s).penR1 = s.penR1 := rfl
@[simp] theorem writeResult_penR2 (v : Nat) (s : State) : (writeResult v s).penR2 = s.penR2 := rfl
@[simp] theorem writeResult_penR3 (v : Nat) (s : State) : (writeResult v s).penR3 = s.penR3 := rfl
@[simp] theorem writeResult_penR4 (v : Nat) (s : State) : (writeResult v s).penR4 = s.penR4 := rfl
@[simp] theorem writeResult_pens (v : Nat) (s : State) : (writeResult v s).pens = s.pens := rfl
@[simp] theorem writeResult_data (v : Nat) (s : State) : (writeResult v s).data = s.data := rfl
@[simp] theorem writeResult_pa (v : Nat) (s : State) : (writeResult v s).pa = s.pa := rfl
@[simp] theorem writeResult_pb (v : Nat) (s : State) : (writeResult v s).pb = s.pb := rfl
@[simp] theorem writeResult_pr (v : Nat) (s : State) : (writeResult v s).pr = s.pr := rfl
@[simp] theorem writeResult_cw (v : Nat) (s : State) : (writeResult v s).cw = s.cw := rfl
@[simp] theorem writeResult_ec (v : Nat) (s : State) : (writeResult v s).ec = s.ec := rfl
@[simp] theorem writeResult_mat (v : Nat) (s : State) : (writeResult v s).mat = s.mat := rfl
@[simp] theorem writeResult_draws (v : Nat) (s : State) : (writeResult v s).draws = s.draws := rfl
@[simp] theorem writeResult_host (v : Nat) (s : State) : (writeResult v s).host = s.host := rfl
@[simp] theorem writeResult_turns (v : Nat) (s : State) : (writeResult v s).turns = s.turns := rfl
@[simp] theorem writeResult_replies (v : Nat) (s : State) : (writeResult v s).replies = s.replies := rfl
@[simp] theorem writeResult_cmdErrors (v : Nat) (s : State) : (writeResult v s).cmdErrors = s.cmdErrors := rfl
@[simp] theorem writeResult_accessErrors (v : Nat) (s : State) : (writeResult v s).accessErrors = s.accessErrors := rfl

/-! ### writeMatWord -/

@[simp] theorem writeMatWord_busy (s : State) (r w : Nat) (v : Word) : (writeMatWord s r w v).busy = s.busy := rfl
@[simp] theorem writeMatWord_done (s : State) (r w : Nat) (v : Word) : (writeMatWord s r w v).done = s.done := rfl
@[simp] theorem writeMatWord_err (s : State) (r w : Nat) (v : Word) : (writeMatWord s r w v).err = s.err := rfl
@[simp] theorem writeMatWord_aerr (s : State) (r w : Nat) (v : Word) : (writeMatWord s r w v).aerr = s.aerr := rfl
@[simp] theorem writeMatWord_ecv (s : State) (r w : Nat) (v : Word) : (writeMatWord s r w v).ecv = s.ecv := rfl
@[simp] theorem writeMatWord_ieDone (s : State) (r w : Nat) (v : Word) : (writeMatWord s r w v).ieDone = s.ieDone := rfl
@[simp] theorem writeMatWord_ieErr (s : State) (r w : Nat) (v : Word) : (writeMatWord s r w v).ieErr = s.ieErr := rfl
@[simp] theorem writeMatWord_ieAerr (s : State) (r w : Nat) (v : Word) : (writeMatWord s r w v).ieAerr = s.ieAerr := rfl
@[simp] theorem writeMatWord_r4mode (s : State) (r w : Nat) (v : Word) : (writeMatWord s r w v).r4mode = s.r4mode := rfl
@[simp] theorem writeMatWord_lastCmd (s : State) (r w : Nat) (v : Word) : (writeMatWord s r w v).lastCmd = s.lastCmd := rfl
@[simp] theorem writeMatWord_sampledR4 (s : State) (r w : Nat) (v : Word) : (writeMatWord s r w v).sampledR4 = s.sampledR4 := rfl
@[simp] theorem writeMatWord_errCause (s : State) (r w : Nat) (v : Word) : (writeMatWord s r w v).errCause = s.errCause := rfl
@[simp] theorem writeMatWord_errInfo (s : State) (r w : Nat) (v : Word) : (writeMatWord s r w v).errInfo = s.errInfo := rfl
@[simp] theorem writeMatWord_aerrCause (s : State) (r w : Nat) (v : Word) : (writeMatWord s r w v).aerrCause = s.aerrCause := rfl
@[simp] theorem writeMatWord_aerrAddr (s : State) (r w : Nat) (v : Word) : (writeMatWord s r w v).aerrAddr = s.aerrAddr := rfl
@[simp] theorem writeMatWord_result (s : State) (r w : Nat) (v : Word) : (writeMatWord s r w v).result = s.result := rfl
@[simp] theorem writeMatWord_bufIndex (s : State) (r w : Nat) (v : Word) : (writeMatWord s r w v).bufIndex = s.bufIndex := rfl
@[simp] theorem writeMatWord_bufSel (s : State) (r w : Nat) (v : Word) : (writeMatWord s r w v).bufSel = s.bufSel := rfl
@[simp] theorem writeMatWord_paLen (s : State) (r w : Nat) (v : Word) : (writeMatWord s r w v).paLen = s.paLen := rfl
@[simp] theorem writeMatWord_pbLen (s : State) (r w : Nat) (v : Word) : (writeMatWord s r w v).pbLen = s.pbLen := rfl
@[simp] theorem writeMatWord_prLen (s : State) (r w : Nat) (v : Word) : (writeMatWord s r w v).prLen = s.prLen := rfl
@[simp] theorem writeMatWord_dataLenBits (s : State) (r w : Nat) (v : Word) : (writeMatWord s r w v).dataLenBits = s.dataLenBits := rfl
@[simp] theorem writeMatWord_cwLen (s : State) (r w : Nat) (v : Word) : (writeMatWord s r w v).cwLen = s.cwLen := rfl
@[simp] theorem writeMatWord_groups (s : State) (r w : Nat) (v : Word) : (writeMatWord s r w v).groups = s.groups := rfl
@[simp] theorem writeMatWord_matSize (s : State) (r w : Nat) (v : Word) : (writeMatWord s r w v).matSize = s.matSize := rfl
@[simp] theorem writeMatWord_matRow (s : State) (r w : Nat) (v : Word) : (writeMatWord s r w v).matRow = s.matRow := rfl
@[simp] theorem writeMatWord_matWord (s : State) (r w : Nat) (v : Word) : (writeMatWord s r w v).matWord = s.matWord := rfl
@[simp] theorem writeMatWord_penValid (s : State) (r w : Nat) (v : Word) : (writeMatWord s r w v).penValid = s.penValid := rfl
@[simp] theorem writeMatWord_selMask (s : State) (r w : Nat) (v : Word) : (writeMatWord s r w v).selMask = s.selMask := rfl
@[simp] theorem writeMatWord_selValid (s : State) (r w : Nat) (v : Word) : (writeMatWord s r w v).selValid = s.selValid := rfl
@[simp] theorem writeMatWord_penR1 (s : State) (r w : Nat) (v : Word) : (writeMatWord s r w v).penR1 = s.penR1 := rfl
@[simp] theorem writeMatWord_penR2 (s : State) (r w : Nat) (v : Word) : (writeMatWord s r w v).penR2 = s.penR2 := rfl
@[simp] theorem writeMatWord_penR3 (s : State) (r w : Nat) (v : Word) : (writeMatWord s r w v).penR3 = s.penR3 := rfl
@[simp] theorem writeMatWord_penR4 (s : State) (r w : Nat) (v : Word) : (writeMatWord s r w v).penR4 = s.penR4 := rfl
@[simp] theorem writeMatWord_pens (s : State) (r w : Nat) (v : Word) : (writeMatWord s r w v).pens = s.pens := rfl
@[simp] theorem writeMatWord_data (s : State) (r w : Nat) (v : Word) : (writeMatWord s r w v).data = s.data := rfl
@[simp] theorem writeMatWord_pa (s : State) (r w : Nat) (v : Word) : (writeMatWord s r w v).pa = s.pa := rfl
@[simp] theorem writeMatWord_pb (s : State) (r w : Nat) (v : Word) : (writeMatWord s r w v).pb = s.pb := rfl
@[simp] theorem writeMatWord_pr (s : State) (r w : Nat) (v : Word) : (writeMatWord s r w v).pr = s.pr := rfl
@[simp] theorem writeMatWord_cw (s : State) (r w : Nat) (v : Word) : (writeMatWord s r w v).cw = s.cw := rfl
@[simp] theorem writeMatWord_ec (s : State) (r w : Nat) (v : Word) : (writeMatWord s r w v).ec = s.ec := rfl
@[simp] theorem writeMatWord_mat (s : State) (r w : Nat) (v : Word) : (writeMatWord s r w v).mat = Memory.write s.mat (matIndex r w) v := rfl
@[simp] theorem writeMatWord_draws (s : State) (r w : Nat) (v : Word) : (writeMatWord s r w v).draws = s.draws := rfl
@[simp] theorem writeMatWord_host (s : State) (r w : Nat) (v : Word) : (writeMatWord s r w v).host = s.host := rfl
@[simp] theorem writeMatWord_turns (s : State) (r w : Nat) (v : Word) : (writeMatWord s r w v).turns = s.turns := rfl
@[simp] theorem writeMatWord_replies (s : State) (r w : Nat) (v : Word) : (writeMatWord s r w v).replies = s.replies := rfl
@[simp] theorem writeMatWord_cmdErrors (s : State) (r w : Nat) (v : Word) : (writeMatWord s r w v).cmdErrors = s.cmdErrors := rfl
@[simp] theorem writeMatWord_accessErrors (s : State) (r w : Nat) (v : Word) : (writeMatWord s r w v).accessErrors = s.accessErrors := rfl

/-! ### setBufMem -/

@[simp] theorem setBufMem_busy (s : State) (b : Buf) (m : Memory Byte) : (setBufMem s b m).busy = s.busy := by cases b <;> rfl
@[simp] theorem setBufMem_done (s : State) (b : Buf) (m : Memory Byte) : (setBufMem s b m).done = s.done := by cases b <;> rfl
@[simp] theorem setBufMem_err (s : State) (b : Buf) (m : Memory Byte) : (setBufMem s b m).err = s.err := by cases b <;> rfl
@[simp] theorem setBufMem_aerr (s : State) (b : Buf) (m : Memory Byte) : (setBufMem s b m).aerr = s.aerr := by cases b <;> rfl
@[simp] theorem setBufMem_ecv (s : State) (b : Buf) (m : Memory Byte) : (setBufMem s b m).ecv = s.ecv := by cases b <;> rfl
@[simp] theorem setBufMem_ieDone (s : State) (b : Buf) (m : Memory Byte) : (setBufMem s b m).ieDone = s.ieDone := by cases b <;> rfl
@[simp] theorem setBufMem_ieErr (s : State) (b : Buf) (m : Memory Byte) : (setBufMem s b m).ieErr = s.ieErr := by cases b <;> rfl
@[simp] theorem setBufMem_ieAerr (s : State) (b : Buf) (m : Memory Byte) : (setBufMem s b m).ieAerr = s.ieAerr := by cases b <;> rfl
@[simp] theorem setBufMem_r4mode (s : State) (b : Buf) (m : Memory Byte) : (setBufMem s b m).r4mode = s.r4mode := by cases b <;> rfl
@[simp] theorem setBufMem_lastCmd (s : State) (b : Buf) (m : Memory Byte) : (setBufMem s b m).lastCmd = s.lastCmd := by cases b <;> rfl
@[simp] theorem setBufMem_sampledR4 (s : State) (b : Buf) (m : Memory Byte) : (setBufMem s b m).sampledR4 = s.sampledR4 := by cases b <;> rfl
@[simp] theorem setBufMem_errCause (s : State) (b : Buf) (m : Memory Byte) : (setBufMem s b m).errCause = s.errCause := by cases b <;> rfl
@[simp] theorem setBufMem_errInfo (s : State) (b : Buf) (m : Memory Byte) : (setBufMem s b m).errInfo = s.errInfo := by cases b <;> rfl
@[simp] theorem setBufMem_aerrCause (s : State) (b : Buf) (m : Memory Byte) : (setBufMem s b m).aerrCause = s.aerrCause := by cases b <;> rfl
@[simp] theorem setBufMem_aerrAddr (s : State) (b : Buf) (m : Memory Byte) : (setBufMem s b m).aerrAddr = s.aerrAddr := by cases b <;> rfl
@[simp] theorem setBufMem_result (s : State) (b : Buf) (m : Memory Byte) : (setBufMem s b m).result = s.result := by cases b <;> rfl
@[simp] theorem setBufMem_bufIndex (s : State) (b : Buf) (m : Memory Byte) : (setBufMem s b m).bufIndex = s.bufIndex := by cases b <;> rfl
@[simp] theorem setBufMem_bufSel (s : State) (b : Buf) (m : Memory Byte) : (setBufMem s b m).bufSel = s.bufSel := by cases b <;> rfl
@[simp] theorem setBufMem_paLen (s : State) (b : Buf) (m : Memory Byte) : (setBufMem s b m).paLen = s.paLen := by cases b <;> rfl
@[simp] theorem setBufMem_pbLen (s : State) (b : Buf) (m : Memory Byte) : (setBufMem s b m).pbLen = s.pbLen := by cases b <;> rfl
@[simp] theorem setBufMem_prLen (s : State) (b : Buf) (m : Memory Byte) : (setBufMem s b m).prLen = s.prLen := by cases b <;> rfl
@[simp] theorem setBufMem_dataLenBits (s : State) (b : Buf) (m : Memory Byte) : (setBufMem s b m).dataLenBits = s.dataLenBits := by cases b <;> rfl
@[simp] theorem setBufMem_cwLen (s : State) (b : Buf) (m : Memory Byte) : (setBufMem s b m).cwLen = s.cwLen := by cases b <;> rfl
@[simp] theorem setBufMem_groups (s : State) (b : Buf) (m : Memory Byte) : (setBufMem s b m).groups = s.groups := by cases b <;> rfl
@[simp] theorem setBufMem_matSize (s : State) (b : Buf) (m : Memory Byte) : (setBufMem s b m).matSize = s.matSize := by cases b <;> rfl
@[simp] theorem setBufMem_matRow (s : State) (b : Buf) (m : Memory Byte) : (setBufMem s b m).matRow = s.matRow := by cases b <;> rfl
@[simp] theorem setBufMem_matWord (s : State) (b : Buf) (m : Memory Byte) : (setBufMem s b m).matWord = s.matWord := by cases b <;> rfl
@[simp] theorem setBufMem_penValid (s : State) (b : Buf) (m : Memory Byte) : (setBufMem s b m).penValid = s.penValid := by cases b <;> rfl
@[simp] theorem setBufMem_selMask (s : State) (b : Buf) (m : Memory Byte) : (setBufMem s b m).selMask = s.selMask := by cases b <;> rfl
@[simp] theorem setBufMem_selValid (s : State) (b : Buf) (m : Memory Byte) : (setBufMem s b m).selValid = s.selValid := by cases b <;> rfl
@[simp] theorem setBufMem_penR1 (s : State) (b : Buf) (m : Memory Byte) : (setBufMem s b m).penR1 = s.penR1 := by cases b <;> rfl
@[simp] theorem setBufMem_penR2 (s : State) (b : Buf) (m : Memory Byte) : (setBufMem s b m).penR2 = s.penR2 := by cases b <;> rfl
@[simp] theorem setBufMem_penR3 (s : State) (b : Buf) (m : Memory Byte) : (setBufMem s b m).penR3 = s.penR3 := by cases b <;> rfl
@[simp] theorem setBufMem_penR4 (s : State) (b : Buf) (m : Memory Byte) : (setBufMem s b m).penR4 = s.penR4 := by cases b <;> rfl
@[simp] theorem setBufMem_pens (s : State) (b : Buf) (m : Memory Byte) : (setBufMem s b m).pens = s.pens := by cases b <;> rfl
@[simp] theorem setBufMem_mat (s : State) (b : Buf) (m : Memory Byte) : (setBufMem s b m).mat = s.mat := by cases b <;> rfl
@[simp] theorem setBufMem_draws (s : State) (b : Buf) (m : Memory Byte) : (setBufMem s b m).draws = s.draws := by cases b <;> rfl
@[simp] theorem setBufMem_host (s : State) (b : Buf) (m : Memory Byte) : (setBufMem s b m).host = s.host := by cases b <;> rfl
@[simp] theorem setBufMem_turns (s : State) (b : Buf) (m : Memory Byte) : (setBufMem s b m).turns = s.turns := by cases b <;> rfl
@[simp] theorem setBufMem_replies (s : State) (b : Buf) (m : Memory Byte) : (setBufMem s b m).replies = s.replies := by cases b <;> rfl
@[simp] theorem setBufMem_cmdErrors (s : State) (b : Buf) (m : Memory Byte) : (setBufMem s b m).cmdErrors = s.cmdErrors := by cases b <;> rfl
@[simp] theorem setBufMem_accessErrors (s : State) (b : Buf) (m : Memory Byte) : (setBufMem s b m).accessErrors = s.accessErrors := by cases b <;> rfl

/-! ### setPolyLen -/

@[simp] theorem setPolyLen_busy (s : State) (p : PolyBuf) (n : Nat) : (setPolyLen s p n).busy = s.busy := by cases p <;> rfl
@[simp] theorem setPolyLen_done (s : State) (p : PolyBuf) (n : Nat) : (setPolyLen s p n).done = s.done := by cases p <;> rfl
@[simp] theorem setPolyLen_err (s : State) (p : PolyBuf) (n : Nat) : (setPolyLen s p n).err = s.err := by cases p <;> rfl
@[simp] theorem setPolyLen_aerr (s : State) (p : PolyBuf) (n : Nat) : (setPolyLen s p n).aerr = s.aerr := by cases p <;> rfl
@[simp] theorem setPolyLen_ecv (s : State) (p : PolyBuf) (n : Nat) : (setPolyLen s p n).ecv = s.ecv := by cases p <;> rfl
@[simp] theorem setPolyLen_ieDone (s : State) (p : PolyBuf) (n : Nat) : (setPolyLen s p n).ieDone = s.ieDone := by cases p <;> rfl
@[simp] theorem setPolyLen_ieErr (s : State) (p : PolyBuf) (n : Nat) : (setPolyLen s p n).ieErr = s.ieErr := by cases p <;> rfl
@[simp] theorem setPolyLen_ieAerr (s : State) (p : PolyBuf) (n : Nat) : (setPolyLen s p n).ieAerr = s.ieAerr := by cases p <;> rfl
@[simp] theorem setPolyLen_r4mode (s : State) (p : PolyBuf) (n : Nat) : (setPolyLen s p n).r4mode = s.r4mode := by cases p <;> rfl
@[simp] theorem setPolyLen_lastCmd (s : State) (p : PolyBuf) (n : Nat) : (setPolyLen s p n).lastCmd = s.lastCmd := by cases p <;> rfl
@[simp] theorem setPolyLen_sampledR4 (s : State) (p : PolyBuf) (n : Nat) : (setPolyLen s p n).sampledR4 = s.sampledR4 := by cases p <;> rfl
@[simp] theorem setPolyLen_errCause (s : State) (p : PolyBuf) (n : Nat) : (setPolyLen s p n).errCause = s.errCause := by cases p <;> rfl
@[simp] theorem setPolyLen_errInfo (s : State) (p : PolyBuf) (n : Nat) : (setPolyLen s p n).errInfo = s.errInfo := by cases p <;> rfl
@[simp] theorem setPolyLen_aerrCause (s : State) (p : PolyBuf) (n : Nat) : (setPolyLen s p n).aerrCause = s.aerrCause := by cases p <;> rfl
@[simp] theorem setPolyLen_aerrAddr (s : State) (p : PolyBuf) (n : Nat) : (setPolyLen s p n).aerrAddr = s.aerrAddr := by cases p <;> rfl
@[simp] theorem setPolyLen_result (s : State) (p : PolyBuf) (n : Nat) : (setPolyLen s p n).result = s.result := by cases p <;> rfl
@[simp] theorem setPolyLen_bufIndex (s : State) (p : PolyBuf) (n : Nat) : (setPolyLen s p n).bufIndex = s.bufIndex := by cases p <;> rfl
@[simp] theorem setPolyLen_bufSel (s : State) (p : PolyBuf) (n : Nat) : (setPolyLen s p n).bufSel = s.bufSel := by cases p <;> rfl
@[simp] theorem setPolyLen_dataLenBits (s : State) (p : PolyBuf) (n : Nat) : (setPolyLen s p n).dataLenBits = s.dataLenBits := by cases p <;> rfl
@[simp] theorem setPolyLen_cwLen (s : State) (p : PolyBuf) (n : Nat) : (setPolyLen s p n).cwLen = s.cwLen := by cases p <;> rfl
@[simp] theorem setPolyLen_groups (s : State) (p : PolyBuf) (n : Nat) : (setPolyLen s p n).groups = s.groups := by cases p <;> rfl
@[simp] theorem setPolyLen_matSize (s : State) (p : PolyBuf) (n : Nat) : (setPolyLen s p n).matSize = s.matSize := by cases p <;> rfl
@[simp] theorem setPolyLen_matRow (s : State) (p : PolyBuf) (n : Nat) : (setPolyLen s p n).matRow = s.matRow := by cases p <;> rfl
@[simp] theorem setPolyLen_matWord (s : State) (p : PolyBuf) (n : Nat) : (setPolyLen s p n).matWord = s.matWord := by cases p <;> rfl
@[simp] theorem setPolyLen_penValid (s : State) (p : PolyBuf) (n : Nat) : (setPolyLen s p n).penValid = s.penValid := by cases p <;> rfl
@[simp] theorem setPolyLen_selMask (s : State) (p : PolyBuf) (n : Nat) : (setPolyLen s p n).selMask = s.selMask := by cases p <;> rfl
@[simp] theorem setPolyLen_selValid (s : State) (p : PolyBuf) (n : Nat) : (setPolyLen s p n).selValid = s.selValid := by cases p <;> rfl
@[simp] theorem setPolyLen_penR1 (s : State) (p : PolyBuf) (n : Nat) : (setPolyLen s p n).penR1 = s.penR1 := by cases p <;> rfl
@[simp] theorem setPolyLen_penR2 (s : State) (p : PolyBuf) (n : Nat) : (setPolyLen s p n).penR2 = s.penR2 := by cases p <;> rfl
@[simp] theorem setPolyLen_penR3 (s : State) (p : PolyBuf) (n : Nat) : (setPolyLen s p n).penR3 = s.penR3 := by cases p <;> rfl
@[simp] theorem setPolyLen_penR4 (s : State) (p : PolyBuf) (n : Nat) : (setPolyLen s p n).penR4 = s.penR4 := by cases p <;> rfl
@[simp] theorem setPolyLen_pens (s : State) (p : PolyBuf) (n : Nat) : (setPolyLen s p n).pens = s.pens := by cases p <;> rfl
@[simp] theorem setPolyLen_data (s : State) (p : PolyBuf) (n : Nat) : (setPolyLen s p n).data = s.data := by cases p <;> rfl
@[simp] theorem setPolyLen_pa (s : State) (p : PolyBuf) (n : Nat) : (setPolyLen s p n).pa = s.pa := by cases p <;> rfl
@[simp] theorem setPolyLen_pb (s : State) (p : PolyBuf) (n : Nat) : (setPolyLen s p n).pb = s.pb := by cases p <;> rfl
@[simp] theorem setPolyLen_pr (s : State) (p : PolyBuf) (n : Nat) : (setPolyLen s p n).pr = s.pr := by cases p <;> rfl
@[simp] theorem setPolyLen_cw (s : State) (p : PolyBuf) (n : Nat) : (setPolyLen s p n).cw = s.cw := by cases p <;> rfl
@[simp] theorem setPolyLen_ec (s : State) (p : PolyBuf) (n : Nat) : (setPolyLen s p n).ec = s.ec := by cases p <;> rfl
@[simp] theorem setPolyLen_mat (s : State) (p : PolyBuf) (n : Nat) : (setPolyLen s p n).mat = s.mat := by cases p <;> rfl
@[simp] theorem setPolyLen_draws (s : State) (p : PolyBuf) (n : Nat) : (setPolyLen s p n).draws = s.draws := by cases p <;> rfl
@[simp] theorem setPolyLen_host (s : State) (p : PolyBuf) (n : Nat) : (setPolyLen s p n).host = s.host := by cases p <;> rfl
@[simp] theorem setPolyLen_turns (s : State) (p : PolyBuf) (n : Nat) : (setPolyLen s p n).turns = s.turns := by cases p <;> rfl
@[simp] theorem setPolyLen_replies (s : State) (p : PolyBuf) (n : Nat) : (setPolyLen s p n).replies = s.replies := by cases p <;> rfl
@[simp] theorem setPolyLen_cmdErrors (s : State) (p : PolyBuf) (n : Nat) : (setPolyLen s p n).cmdErrors = s.cmdErrors := by cases p <;> rfl
@[simp] theorem setPolyLen_accessErrors (s : State) (p : PolyBuf) (n : Nat) : (setPolyLen s p n).accessErrors = s.accessErrors := by cases p <;> rfl

/-- A buffer after one buffer was replaced: the new contents there, the old contents elsewhere. -/
@[simp] theorem bufMem_setBufMem (s : State) (b b' : Buf) (m : Memory Byte) :
    bufMem (setBufMem s b m) b' = if b' = b then m else bufMem s b' := by
  cases b <;> cases b' <;> rfl

@[simp] theorem bufMem_setPolyLen (s : State) (p : PolyBuf) (n : Nat) (b : Buf) :
    bufMem (setPolyLen s p n) b = bufMem s b := by
  cases p <;> cases b <;> rfl

@[simp] theorem bufMem_completeOk (s : State) (b : Buf) : bufMem (completeOk s) b = bufMem s b := by cases b <;> rfl

@[simp] theorem bufMem_commandError (e : CommandError) (s : State) (b : Buf) :
    bufMem (commandError e s) b = bufMem s b := by cases b <;> rfl

@[simp] theorem bufMem_takeTurn (s : State) (b : Buf) : bufMem (takeTurn s) b = bufMem s b := by cases b <;> rfl

@[simp] theorem bufMem_accessError (c : AerrCause) (o : BitVec 12) (s : State) (b : Buf) :
    bufMem (accessError c o s) b = bufMem s b := by cases b <;> rfl

@[simp] theorem bufMem_issue (w : Word) (s : State) (b : Buf) : bufMem (issue w s) b = bufMem s b := by cases b <;> rfl

@[simp] theorem bufMem_advanceBuf (s : State) (b : Buf) : bufMem (advanceBuf s) b = bufMem s b := by cases b <;> rfl

/-- The length register a write of one sets; the other two keep theirs (R237). -/
@[simp] theorem polyLen_setPolyLen (s : State) (p q : PolyBuf) (n : Nat) (h : n < 512) :
    polyLen (setPolyLen s p n) q = if q = p then n else polyLen s q := by
  cases p <;> cases q <;> simp [polyLen, setPolyLen, Nat.mod_eq_of_lt h]

/-! ### State.reset -/

@[simp] theorem State.reset_busy : State.reset.busy = false := rfl
@[simp] theorem State.reset_done : State.reset.done = false := rfl
@[simp] theorem State.reset_err : State.reset.err = false := rfl
@[simp] theorem State.reset_aerr : State.reset.aerr = false := rfl
@[simp] theorem State.reset_ecv : State.reset.ecv = false := rfl
@[simp] theorem State.reset_ieDone : State.reset.ieDone = false := rfl
@[simp] theorem State.reset_ieErr : State.reset.ieErr = false := rfl
@[simp] theorem State.reset_ieAerr : State.reset.ieAerr = false := rfl
@[simp] theorem State.reset_r4mode : State.reset.r4mode = .exactRatio := rfl
@[simp] theorem State.reset_lastCmd : State.reset.lastCmd = 0#32 := rfl
@[simp] theorem State.reset_sampledR4 : State.reset.sampledR4 = .exactRatio := rfl
@[simp] theorem State.reset_errCause : State.reset.errCause = .noError := rfl
@[simp] theorem State.reset_errInfo : State.reset.errInfo = 0#32 := rfl
@[simp] theorem State.reset_aerrCause : State.reset.aerrCause = .noError := rfl
@[simp] theorem State.reset_aerrAddr : State.reset.aerrAddr = 0#12 := rfl
@[simp] theorem State.reset_result : State.reset.result = 0#32 := rfl
@[simp] theorem State.reset_bufIndex : State.reset.bufIndex = 0#16 := rfl
@[simp] theorem State.reset_bufSel : State.reset.bufSel = 0#4 := rfl
@[simp] theorem State.reset_paLen : State.reset.paLen = 0#9 := rfl
@[simp] theorem State.reset_pbLen : State.reset.pbLen = 0#9 := rfl
@[simp] theorem State.reset_prLen : State.reset.prLen = 0#9 := rfl
@[simp] theorem State.reset_dataLenBits : State.reset.dataLenBits = 0#16 := rfl
@[simp] theorem State.reset_cwLen : State.reset.cwLen = 0#16 := rfl
@[simp] theorem State.reset_groups : State.reset.groups = #v[⟨0#8, 0#8, 0#8⟩, ⟨0#8, 0#8, 0#8⟩, ⟨0#8, 0#8, 0#8⟩, ⟨0#8, 0#8, 0#8⟩] := rfl
@[simp] theorem State.reset_matSize : State.reset.matSize = 0#8 := rfl
@[simp] theorem State.reset_matRow : State.reset.matRow = 0#8 := rfl
@[simp] theorem State.reset_matWord : State.reset.matWord = 0#3 := rfl
@[simp] theorem State.reset_penValid : State.reset.penValid = 0#8 := rfl
@[simp] theorem State.reset_selMask : State.reset.selMask = 0#3 := rfl
@[simp] theorem State.reset_selValid : State.reset.selValid = false := rfl
@[simp] theorem State.reset_penR1 : State.reset.penR1 = 0#32 := rfl
@[simp] theorem State.reset_penR2 : State.reset.penR2 = 0#32 := rfl
@[simp] theorem State.reset_penR3 : State.reset.penR3 = 0#32 := rfl
@[simp] theorem State.reset_penR4 : State.reset.penR4 = 0#32 := rfl
@[simp] theorem State.reset_pens : State.reset.pens = #v[0#32, 0#32, 0#32, 0#32, 0#32, 0#32, 0#32, 0#32] := rfl
@[simp] theorem State.reset_data : State.reset.data = [] := rfl
@[simp] theorem State.reset_pa : State.reset.pa = [] := rfl
@[simp] theorem State.reset_pb : State.reset.pb = [] := rfl
@[simp] theorem State.reset_pr : State.reset.pr = [] := rfl
@[simp] theorem State.reset_cw : State.reset.cw = [] := rfl
@[simp] theorem State.reset_ec : State.reset.ec = [] := rfl
@[simp] theorem State.reset_mat : State.reset.mat = [] := rfl
@[simp] theorem State.reset_draws : State.reset.draws = 0 := rfl
@[simp] theorem State.reset_host : State.reset.host = [] := rfl
@[simp] theorem State.reset_turns : State.reset.turns = [] := rfl
@[simp] theorem State.reset_replies : State.reset.replies = [] := rfl
@[simp] theorem State.reset_cmdErrors : State.reset.cmdErrors = [] := rfl
@[simp] theorem State.reset_accessErrors : State.reset.accessErrors = [] := rfl

end Sys2Proof.Machine
end

