-- ==== Sys2Proof/Laws/Ops.lean ====
section
/-! SUPPORT. What the shared operations can do, one lemma each: completion, the buffer reads and writes, the register map. -/

namespace Sys2Proof.Machine

/-- A list of checks passes exactly when none of its conditions holds. -/
theorem firstError_eq_none (checks : List (Bool × CommandError)) :
    firstError checks = none ↔ ∀ c ∈ checks, c.1 = false := by
  induction checks with
  | nil => simp [firstError]
  | cons c rest ih =>
    obtain ⟨b, e⟩ := c
    cases b <;> simp [firstError, ih]

/-- The first error of two lists of checks is that of the first, or else that of the second. -/
theorem firstError_append (xs ys : List (Bool × CommandError)) :
    firstError (xs ++ ys) = (firstError xs).or (firstError ys) := by
  induction xs with
  | nil => simp [firstError]
  | cons c rest ih =>
    obtain ⟨b, e⟩ := c
    cases b <;> simp [firstError, ih]

/-- A completion always answers a next state. -/
theorem complete_next (checks : List (Bool × CommandError)) (effect : Except CommandError State) (s : State) :
    ∃ t, complete checks effect s = .next t := by
  unfold complete
  cases firstError checks <;> cases effect <;> exact ⟨_, rfl⟩

/-- Everything a completion can do: report a failed check, report an error of its effect, or apply the effect. -/
theorem complete_cases {checks : List (Bool × CommandError)} {effect : Except CommandError State} {s t : State}
    (h : complete checks effect s = .next t) :
    (∃ e, firstError checks = some e ∧ t = commandError e s)
    ∨ (firstError checks = none ∧ ∃ e, effect = .error e ∧ t = commandError e s)
    ∨ (firstError checks = none ∧ ∃ u, effect = .ok u ∧ t = completeOk u) := by
  unfold complete at h
  split at h
  · next e he => exact .inl ⟨e, he, by injection h with h; exact h.symm⟩
  · next hn =>
    split at h
    · next e => exact .inr (.inl ⟨hn, e, rfl, by injection h with h; exact h.symm⟩)
    · next u => exact .inr (.inr ⟨hn, u, rfl, by injection h with h; exact h.symm⟩)

/-- A completion whose checks pass and whose effect is a state applies it. -/
theorem complete_ok {checks : List (Bool × CommandError)} {u s : State} (h : firstError checks = none) :
    complete checks (.ok u) s = .next (completeOk u) := by
  simp [complete, h]

/-- A completion with a failed check reports the first. -/
theorem complete_error {checks : List (Bool × CommandError)} {effect : Except CommandError State} {e : CommandError}
    {s : State} (h : firstError checks = some e) : complete checks effect s = .next (commandError e s) := by
  simp [complete, h]

/-- A byte after a run of bytes was written: the written byte inside the run, the old byte outside and in other buffers. -/
theorem readByte_writeBytes (s : State) (b b' : Buf) (base i : Nat) (vs : List Byte) :
    readByte (writeBytes s b base vs) b' i
      = if b' = b ∧ base ≤ i ∧ i < base + vs.length then vs.getD (i - base) 0#8 else readByte s b' i := by
  unfold readByte writeBytes
  simp only [bufMem_setBufMem, setBufMem_draws]
  by_cases hb : b' = b
  · subst hb
    simp only [if_true, Memory.read_writeList, true_and]
    by_cases hi : base ≤ i ∧ i < base + vs.length
    · have hl : i - base < vs.length := by omega
      simp [hi, List.getD, hl]
    · rw [if_neg hi, if_neg hi]
  · simp [hb]

/-- A byte after one byte was written. -/
theorem readByte_writeByte (s : State) (b b' : Buf) (a i : Nat) (v : Byte) :
    readByte (writeByte s b a v) b' i = if b' = b ∧ i = a then v else readByte s b' i := by
  unfold readByte writeByte
  by_cases hb : b' = b
  · subst hb
    by_cases hi : i = a <;> simp [hi]
  · simp [hb]

@[simp] theorem readByte_setPolyLen (s : State) (p : PolyBuf) (n : Nat) (b : Buf) (i : Nat) :
    readByte (setPolyLen s p n) b i = readByte s b i := by
  simp [readByte]

@[simp] theorem readByte_completeOk (s : State) (b : Buf) (i : Nat) : readByte (completeOk s) b i = readByte s b i := by
  simp [readByte]

@[simp] theorem readByte_commandError (e : CommandError) (s : State) (b : Buf) (i : Nat) :
    readByte (commandError e s) b i = readByte s b i := by
  simp [readByte]

/-- Element j of a run of bytes is the byte j places on. -/
theorem readBytes_getElem? (s : State) (b : Buf) (base n j : Nat) :
    (readBytes s b base n)[j]? = if j < n then some (readByte s b (base + j)) else none := by
  unfold readBytes
  by_cases h : j < n <;> simp [h]

@[simp] theorem readBytes_length (s : State) (b : Buf) (base n : Nat) : (readBytes s b base n).length = n := by
  simp [readBytes]

/-- A word of MAT after a word was written. -/
theorem readMatWord_writeMatWord (s : State) (r w r' w' : Nat) (v : Word) (hw : w < 6) (hw' : w' < 6) :
    readMatWord (writeMatWord s r w v) r' w' = if r' = r ∧ w' = w then v else readMatWord s r' w' := by
  unfold readMatWord
  simp only [writeMatWord_mat, writeMatWord_draws, Memory.read_write]
  by_cases h : r' = r ∧ w' = w
  · simp [h]
  · have hne : ¬ matIndex r' w' = matIndex r w := by
      simp only [matIndex, Config.matWords]
      omega
    simp [h, hne]

/-- The register at the offset of a register is that register: the offsets of the map are distinct. -/
theorem regAt_regOffset (r : Reg) : regAt (BitVec.ofNat 12 (regOffset r)) = some r := by
  cases r with
  | group k => fin_cases k <;> decide
  | penR k => fin_cases k <;> decide
  | pen k => fin_cases k <;> decide
  | _ => decide

end Sys2Proof.Machine
end

