-- ==== Sys2Proof/Laws/PerInstr.lean ====
section
/-! SUPPORT. Facts about every command, as syntax, one lemma per constructor of Instr. -/

namespace Sys2Proof.Laws

/-- Operands that touch no bit of a mask touch none together. -/
theorem or_mask_zero {a b mask : Word} (ha : a &&& mask = 0#32) (hb : b &&& mask = 0#32) :
    (a ||| b) &&& mask = 0#32 := by
  rw [BitVec.and_comm, BitVec.and_or_distrib_left, BitVec.and_comm mask a, BitVec.and_comm mask b, ha, hb]
  rfl

/-- A number below 2^n touches no bit of a mask that starts at bit n. -/
theorem ofNat_mask_zero (n : Nat) {k : Nat} {mask : Word} (hk : k < 2 ^ n) (hm : ∀ i < n, mask.getLsbD i = false) :
    BitVec.ofNat 32 k &&& mask = 0#32 := by
  apply BitVec.eq_of_getLsbD_eq
  intro i _
  rw [BitVec.getLsbD_and, BitVec.getLsbD_ofNat, BitVec.getLsbD_zero]
  by_cases hn : i < n
  · simp [hm i hn]
  · have : k.testBit i = false :=
      Nat.testBit_lt_two_pow (lt_of_lt_of_le hk (Nat.pow_le_pow_right (by omega) (by omega)))
    simp [this]

/-- A byte operand touches no bit of a mask that starts at bit 8. -/
theorem byte_mask_zero (x : Byte) : (x.setWidth 32 : Word) &&& 0xFFFFFF00#32 = 0#32 := by revert x; decide

/-- The match value of a row has no bit outside the row's mask (R150). -/
theorem matchWord_and_mask (o : Opcode) : o.matchWord &&& o.format.mask = o.matchWord := by cases o <;> decide

/-- A row's match value with operand bits outside the row's mask still matches the row. -/
theorem matches_row (o : Opcode) {operand : Word} (h : operand &&& o.format.mask = 0#32) :
    (o.matchWord ||| operand) &&& o.format.mask = o.matchWord := by
  rw [BitVec.and_comm, BitVec.and_or_distrib_left, BitVec.and_comm _ o.matchWord, BitVec.and_comm _ operand, h,
    matchWord_and_mask]
  simp

/-- Row: the word of a well-formed command has the fixed bits of its row of the opcode map (R150). -/
def Row.Statement (i : Instr) : Prop :=
  i.wf = true → encode i &&& (opcodeOfInstr i).format.mask = (opcodeOfInstr i).matchWord

theorem Row.nop : Row.Statement .nop := fun _ => by decide

theorem Row.gfExp (n : Int) : Row.Statement (.gfExp n) := fun _ =>
  matches_row .gfExp (operand := BitVec.ofNat 32 (n % 65536).toNat) (ofNat_mask_zero 16 (by omega) (by decide))

theorem Row.gfLog (x : Byte) : Row.Statement (.gfLog x) := fun _ =>
  matches_row .gfLog (operand := x.setWidth 32) (byte_mask_zero x)

theorem Row.gfMul (a b : Byte) : Row.Statement (.gfMul a b) := fun _ => by
  have ha : ((a.setWidth 32 : Word) <<< 8) &&& 0xFFFF0000#32 = 0#32 := by
    generalize a = a'; revert a'; decide
  have hb : (b.setWidth 32 : Word) &&& 0xFFFF0000#32 = 0#32 := by
    generalize b = b'; revert b'; decide
  rw [encode, BitVec.or_assoc]
  exact matches_row .gfMul (or_mask_zero ha hb)

theorem Row.polyNew (buf : PolyBuf) (shift : Nat) : Row.Statement (.polyNew buf shift) := fun h => by
  have hs : shift < 2 ^ 9 := by
    simp only [Instr.wf, decide_eq_true_eq] at h
    omega
  have hb : ((polyBufCode buf).setWidth 32 <<< 16) &&& 0xFFFCFE00#32 = 0#32 := by cases buf <;> decide
  rw [encode, BitVec.or_assoc]
  exact matches_row .polyNew (or_mask_zero hb (ofNat_mask_zero 9 hs (by decide)))

theorem Row.polyCopy (dst src : PolyBuf) : Row.Statement (.polyCopy dst src) := fun _ => by
  cases dst <;> cases src <;> decide

theorem Row.polyMul : Row.Statement .polyMul := fun _ => by decide

theorem Row.polyMod : Row.Statement .polyMod := fun _ => by decide

theorem Row.polyGen (n : Nat) : Row.Statement (.polyGen n) := fun h => by
  have hn : n < 2 ^ 9 := by
    simp only [Instr.wf, decide_eq_true_eq] at h
    omega
  exact matches_row .polyGen (ofNat_mask_zero 9 hn (by decide))

theorem Row.rsFinalize : Row.Statement .rsFinalize := fun _ => by decide

theorem Row.rsBlocks : Row.Statement .rsBlocks := fun _ => by decide

theorem Row.rsInterleave : Row.Statement .rsInterleave := fun _ => by decide

theorem Row.rsEncode : Row.Statement .rsEncode := fun _ => by decide

theorem Row.maskEval (k : Nat) : Row.Statement (.maskEval k) := fun h => by
  have hk : k < 2 ^ 3 := by
    simp only [Instr.wf, decide_eq_true_eq] at h
    omega
  exact matches_row .maskEval (ofNat_mask_zero 3 hk (by decide))

theorem Row.maskSelect : Row.Statement .maskSelect := fun _ => by decide

theorem Row.maskClear : Row.Statement .maskClear := fun _ => by decide

end Sys2Proof.Laws
end

