-- ==== Sys2Proof/Laws/Step.lean ====
section
/-! SUPPORT. What a command, a host access and a step can do, each said once, for proofs to cite. -/

namespace Sys2Proof.Machine

/-- What no effect of a command touches: the error report, the access-error flag, the draws, and what is outside. -/
structure Keeps (s u : State) : Prop where
  err : u.err = s.err
  errCause : u.errCause = s.errCause
  errInfo : u.errInfo = s.errInfo
  cmdErrors : u.cmdErrors = s.cmdErrors
  accessErrors : u.accessErrors = s.accessErrors
  aerr : u.aerr = s.aerr
  host : u.host = s.host
  turns : u.turns = s.turns
  replies : u.replies = s.replies
  draws : u.draws = s.draws

theorem Keeps.refl (s : State) : Keeps s s := by constructor <;> rfl

theorem Keeps.trans {a b c : State} (h : Keeps a b) (k : Keeps b c) : Keeps a c where
  err := k.err.trans h.err
  errCause := k.errCause.trans h.errCause
  errInfo := k.errInfo.trans h.errInfo
  cmdErrors := k.cmdErrors.trans h.cmdErrors
  accessErrors := k.accessErrors.trans h.accessErrors
  aerr := k.aerr.trans h.aerr
  host := k.host.trans h.host
  turns := k.turns.trans h.turns
  replies := k.replies.trans h.replies
  draws := k.draws.trans h.draws

theorem writeBytes_keeps (s : State) (b : Buf) (base : Nat) (vs : List Byte) : Keeps s (writeBytes s b base vs) := by
  cases b <;> constructor <;> rfl

theorem writePoly_keeps (s : State) (p : PolyBuf) (r : Poly) : Keeps s (writePoly s p r) := by
  cases p <;> constructor <;> rfl

theorem writeEcFrom_keeps (b : Nat) (s : State) (es : List (List Byte)) : Keeps s (writeEcFrom b s es) := by
  induction es generalizing b s with
  | nil => exact Keeps.refl s
  | cons e es ih => exact (writeBytes_keeps s .ec _ e).trans (ih _ _)

theorem blocksBody_keeps {s u : State} (h : blocksBody s = .ok u) : Keeps s u := by
  unfold blocksBody at h
  split at h
  · injection h with h; subst h
    have := writeEcFrom_keeps 0 s ‹_›
    exact ⟨this.err, this.errCause, this.errInfo, this.cmdErrors, this.accessErrors, this.aerr, this.host, this.turns,
      this.replies, this.draws⟩
  · cases h

theorem finalizeBody_keeps (s : State) : Keeps s (finalizeBody s) := by constructor <;> simp [finalizeBody, writeBytes]

theorem interleaveBody_keeps (s : State) : Keeps s (interleaveBody s) := by constructor <;> simp [interleaveBody, writeBytes]

/-- Everything a command can do: report an error with a cause and change nothing else, or complete after an effect that keeps
the error report and what is outside. -/
theorem exec_cases {i : Instr} {s t : State} (h : exec i s = .next t) :
    (∃ e, e.cause ≠ .noError ∧ t = commandError e s) ∨ (∃ u, Keeps s u ∧ t = completeOk u) := by
  have key : ∀ (checks : List (Bool × CommandError)) (effect : Except CommandError State),
      (∀ c ∈ checks, c.2.cause ≠ .noError) → (∀ e, effect = .error e → e.cause ≠ .noError) →
      (∀ u, effect = .ok u → Keeps s u) → complete checks effect s = .next t →
      (∃ e, e.cause ≠ .noError ∧ t = commandError e s) ∨ (∃ u, Keeps s u ∧ t = completeOk u) := by
    intro checks effect hc he hu h
    rcases complete_cases h with ⟨e, h1, h2⟩ | ⟨_, e, h1, h2⟩ | ⟨_, u, h1, h2⟩
    · refine .inl ⟨e, ?_, h2⟩
      clear h h2
      induction checks with
      | nil => simp [firstError] at h1
      | cons c cs ih =>
        obtain ⟨b, e'⟩ := c
        cases b
        · exact ih (fun c hm => hc c (List.mem_cons_of_mem _ hm)) (by simpa [firstError] using h1)
        · simp [firstError] at h1; subst h1; exact hc _ (List.mem_cons_self)
    · exact .inl ⟨e, he e h1, h2⟩
    · exact .inr ⟨u, hu u h1, h2⟩
  cases i <;> simp only [exec, execNop, execGfExp, execGfLog, execGfMul, execPolyNew, execPolyCopy, execPolyMul, execPolyMod, execPolyGen, execRsFinalize, execRsBlocks, execRsInterleave, execRsEncode, execMaskEval, execMaskSelect, execMaskClear] at h
  case nop => exact key _ _ (by intro _ h; cases h) (by intro _ h; cases h) (by intro u h; injection h with h; subst h; exact Keeps.refl s) h
  case gfExp n => exact key _ _ (by intro _ h; cases h) (by intro _ h; cases h) (by intro u h; injection h with h; subst h; constructor <;> rfl) h
  case gfLog x =>
    refine key _ _ (by intro _ h; cases h) ?_ ?_ h
    · intro e he; split at he <;> cases he; simp [domainError]
    · intro u he; split at he <;> cases he; constructor <;> rfl
  case gfMul x y =>
    refine key _ _ (by intro _ h; cases h) ?_ ?_ h
    · intro e he; split at he <;> cases he; simp [domainError]
    · intro u he; split at he <;> cases he; constructor <;> rfl
  case polyNew p n =>
    refine key _ _ ?_ (by intro _ h; cases h) ?_ h
    · cases p <;> simp [readPolyChecks, capacityError]
    · intro u he; injection he with he; subst he; exact writePoly_keeps _ _ _
  case polyCopy p q =>
    refine key _ _ ?_ (by intro _ h; cases h) ?_ h
    · cases q <;> simp [readPolyChecks, capacityError]
    · intro u he; injection he with he; subst he; exact writePoly_keeps _ _ _
  case polyMul =>
    refine key _ _ ?_ ?_ ?_ h
    · simp [polyMulChecks, readPolyChecks, capacityError, domainError]
    · intro e he; split at he <;> cases he; simp [domainError]
    · intro u he; split at he <;> cases he; exact writePoly_keeps _ _ _
  case polyMod =>
    refine key _ _ ?_ ?_ ?_ h
    · simp [polyModChecks, readPolyChecks, capacityError, domainError]
    · intro e he; split at he <;> cases he; simp [domainError]
    · intro u he; split at he <;> cases he; exact writePoly_keeps _ _ _
  case polyGen n =>
    refine key _ _ ?_ ?_ ?_ h
    · simp [capacityError]
    · intro e he; split at he <;> cases he; simp [domainError]
    · intro u he; split at he <;> cases he; exact writePoly_keeps _ _ _
  case rsFinalize =>
    refine key _ _ ?_ (by intro _ h; cases h) ?_ h
    · simp [layoutChecks, capacityError, configError, encodingOverflow]
    · intro u he; injection he with he; subst he; exact finalizeBody_keeps s
  case rsBlocks =>
    refine key _ _ ?_ ?_ ?_ h
    · simp [layoutChecks, capacityError, configError, sequenceError]
    · intro e he; unfold blocksBody at he; split at he <;> cases he; simp [domainError]
    · intro u he; exact blocksBody_keeps he
  case rsInterleave =>
    refine key _ _ ?_ (by intro _ h; cases h) ?_ h
    · simp [layoutChecks, capacityError, configError, sequenceError]
    · intro u he; injection he with he; subst he; exact interleaveBody_keeps s
  case rsEncode =>
    refine key _ _ ?_ ?_ ?_ h
    · simp [layoutChecks, capacityError, configError, encodingOverflow]
    · intro e he; unfold blocksBody at he
      split at he
      · cases he
      · rename_i h2; split at h2
        · cases h2
        · cases h2; cases he; simp [domainError]
    · intro u he
      split at he
      · injection he with he; subst he
        exact (finalizeBody_keeps s).trans ((blocksBody_keeps ‹_›).trans (interleaveBody_keeps _))
      · simp at he
  case maskEval k =>
    refine key _ _ (by intro c hc; simp at hc; subst hc; simp [configError]) (by intro _ h; cases h) ?_ h
    intro u he; injection he with he; subst he; constructor <;> rfl
  case maskSelect =>
    refine key _ _ (by intro c hc; simp at hc; subst hc; simp [sequenceError]) (by intro _ h; cases h) ?_ h
    intro u he; injection he with he; subst he; constructor <;> rfl
  case maskClear =>
    refine key _ _ (by intro _ h; cases h) (by intro _ h; cases h) ?_ h
    intro u he; injection he with he; subst he; constructor <;> rfl

/-- What a host read can do: report an access error, or advance a port. -/
theorem hostRead_ind (P : State → Prop) (s : State) (w : Nat) (o : BitVec 12) (hs : P s)
    (hacc : ∀ c, accessCheck s .read w o = some c → P (accessError c o s))
    (hread : ∀ r, accessCheck s .read w o = none → regAt o = some r → P (afterRead s r)) : P (hostRead s w o).1 := by
  unfold hostRead
  split
  · exact hacc _ ‹_›
  · exact hread _ ‹_› ‹_›
  · exact hs
/-- What a host write can do: report an access error, or write a register that takes the write. -/
theorem hostWrite_ind (P : State → Prop) (s : State) (w : Nat) (o : BitVec 12) (v : Word) (hs : P s)
    (hacc : ∀ c, accessCheck s .write w o = some c → P (accessError c o s))
    (hwrite : ∀ r, accessCheck s .write w o = none → regAt o = some r → P (afterWrite s v r)) : P (hostWrite s w o v) := by
  unfold hostWrite
  split
  · exact hacc _ ‹_›
  · exact hwrite _ ‹_› ‹_›
  · exact hs

/-- What a move of the host can do: a property that every kind of access keeps holds after it. -/
theorem hostTurn_ind (P : State → Prop) (s : State) (hs : P s)
    (hhost : ∀ s h, P s → P { s with host := h })
    (hrep : ∀ s r, P s → P { s with replies := r })
    (hacc : ∀ s c o, P s → P (accessError c o s))
    (hreset : ∀ s, P s → P (deviceReset s))
    (hread : ∀ s w o r, P s → accessCheck s .read w o = none → regAt o = some r → P (afterRead s r))
    (hwrite : ∀ s w o v r, P s → accessCheck s .write w o = none → regAt o = some r → P (afterWrite s v r)) :
    P (hostTurn s) := by
  unfold hostTurn
  split
  · exact hs
  · exact hrep _ _ (hostRead_ind P _ _ _ (hhost _ _ hs) (fun c _ => hacc _ _ _ (hhost _ _ hs)) (fun r h1 h2 => hread _ _ _ r (hhost _ _ hs) h1 h2))
  · exact hostWrite_ind P _ _ _ _ (hhost _ _ hs) (fun c _ => hacc _ _ _ (hhost _ _ hs)) (fun r h1 h2 => hwrite _ _ _ _ r (hhost _ _ hs) h1 h2)
  · have : P (if (statusWord s).getLsbD 0 = true then s else { s with host := ‹List HostInput› }) := by
      split
      · exact hs
      · exact hhost _ _ hs
    exact hrep _ _ (hostRead_ind P _ _ _ this (fun c _ => hacc _ _ _ this) (fun r h1 h2 => hread _ _ _ r this h1 h2))
  · exact hreset _ (hhost _ _ hs)

/-- What a step can do: a property that every kind of move keeps holds after it. -/
theorem step_ind (P : State → Prop) {s t : State} (h : step s = .next t) (hs : P s)
    (hturn : ∀ s l, P s → P { s with turns := l })
    (hhost : ∀ s h, P s → P { s with host := h })
    (hrep : ∀ s r, P s → P { s with replies := r })
    (hacc : ∀ s c o, P s → P (accessError c o s))
    (hreset : ∀ s, P s → P (deviceReset s))
    (hread : ∀ s w o r, P s → accessCheck s .read w o = none → regAt o = some r → P (afterRead s r))
    (hwrite : ∀ s w o v r, P s → accessCheck s .write w o = none → regAt o = some r → P (afterWrite s v r))
    (hill : ∀ s, P s → s.busy = true → P (commandError (illegalCommand s.lastCmd) s))
    (hexec : ∀ i s t, P s → s.busy = true → exec i s = .next t → P t) : P t := by
  unfold step at h
  split at h
  · unfold engineTurn at h
    have ht : P (takeTurn s) := hturn _ _ hs
    split at h
    · split at h
      · exact hexec _ _ _ ht ‹_› h
      · cases h; exact hill _ ht ‹_›
    · cases h; exact ht
  · cases h
    exact hostTurn_ind P _ (hturn _ _ hs) hhost hrep hacc hreset hread hwrite

end Sys2Proof.Machine
end

