-- ==== Sys2Proof/Tests/Slice0.lean ====
section
/-! SUPPORT. Small checks of the model against words and values written out from the spec: the encodings of
30_encoding.md, the examples of the commands' rules and the vectors of 95_test_vectors.md. -/

namespace Sys2Proof.Tests

open Sys2Proof.Machine

/-! ### Well-formedness: an ill-formed term for each check is refused (R154) -/

theorem test_wf_gfExp_low : (Instr.gfExp (-32769)).wf = false := by decide
theorem test_wf_gfExp_high : (Instr.gfExp 32768).wf = false := by decide
theorem test_wf_polyNew : (Instr.polyNew .pa 512).wf = false := by decide
theorem test_wf_polyGen : (Instr.polyGen 512).wf = false := by decide
theorem test_wf_maskEval : (Instr.maskEval 8).wf = false := by decide
theorem test_wf_accepts : ([Instr.nop, .gfExp (-32768), .gfExp 32767, .gfLog 0xFF#8, .polyNew .pr 511, .polyGen 511,
    .maskEval 7].all Instr.wf) = true := by decide

/-! ### Decoding: a word of every row, written out from its format (R141 to R150, R156) -/

theorem test_decode_nop : decode 0x00000000#32 = .ok .nop := by decide
theorem test_decode_gfExp : decode 0x0100FFFF#32 = .ok (.gfExp (-1)) := by decide
theorem test_decode_gfExp_min : decode 0x01008000#32 = .ok (.gfExp (-32768)) := by decide
theorem test_decode_gfLog : decode 0x0200001D#32 = .ok (.gfLog 29#8) := by decide
theorem test_decode_gfMul : decode 0x030053CA#32 = .ok (.gfMul 0x53#8 0xCA#8) := by decide
theorem test_decode_polyNew : decode 0x1000000A#32 = .ok (.polyNew .pa 10) := by decide
theorem test_decode_polyNew_pr : decode 0x100201FF#32 = .ok (.polyNew .pr 511) := by decide
/-- R156: `POLY_COPY PB, PR` = 0x11090000, src in [19:18], dst in [17:16]. -/
theorem test_decode_polyCopy : decode 0x11090000#32 = .ok (.polyCopy .pb .pr) := by decide
theorem test_decode_polyMul : decode 0x12000000#32 = .ok .polyMul := by decide
theorem test_decode_polyMod : decode 0x13000000#32 = .ok .polyMod := by decide
theorem test_decode_polyGen : decode 0x140001FF#32 = .ok (.polyGen 511) := by decide
theorem test_decode_rsFinalize : decode 0x20000000#32 = .ok .rsFinalize := by decide
theorem test_decode_rsBlocks : decode 0x21000000#32 = .ok .rsBlocks := by decide
theorem test_decode_rsInterleave : decode 0x22000000#32 = .ok .rsInterleave := by decide
theorem test_decode_rsEncode : decode 0x23000000#32 = .ok .rsEncode := by decide
theorem test_decode_maskEval : decode 0x30000007#32 = .ok (.maskEval 7) := by decide
theorem test_decode_maskSelect : decode 0x31000000#32 = .ok .maskSelect := by decide
theorem test_decode_maskClear : decode 0x32000000#32 = .ok .maskClear := by decide

/-- 95 section 2.1: the words that spell no command, by what is wrong with them. -/
theorem test_decode_mustBeZero : [0x00000001#32, 0x01010000#32, 0x02000100#32, 0x030353CA#32, 0x10000200#32, 0x14000200#32,
    0x20000001#32, 0x30000008#32].all (fun w => decode w == .error .mustBeZero) = true := by decide
theorem test_decode_reservedOpcode : [0x04000000#32, 0xFF000000#32, 0x24000000#32, 0x33000000#32, 0x15000000#32].all
    (fun w => decode w == .error .reservedOpcode) = true := by decide
theorem test_decode_reservedBuffer : [0x10030000#32, 0x110C0000#32, 0x11030000#32].all
    (fun w => decode w == .error .reservedBuffer) = true := by decide
theorem test_encode_polyCopy : encode (.polyCopy .pb .pr) = 0x11090000#32 := by decide
theorem test_encode_gfExp : encode (.gfExp (-1)) = 0x0100FFFF#32 := by decide
theorem test_decodeTableWord : decodeTableWord 32 0x030053CA = some (.gfMul 0x53#8 0xCA#8) := by decide

/-! ### Helpers: the state after an outcome, and states with a few fields set -/

/-- The next state of an outcome (an outcome that is no next state reads as reset, which no test below accepts). -/
def after : Host.Outcome State Fault Refusal → State
  | .next t => t
  | _ => State.reset

/-- Reset with PA and PB written and their lengths set. -/
def withPolys (a b : List Byte) : State :=
  { State.reset with
    pa := Memory.writeList [] 0 a
    pb := Memory.writeList [] 0 b
    paLen := BitVec.ofNat 9 a.length
    pbLen := BitVec.ofNat 9 b.length }

/-- Reset with DATA written, two GROUP registers, and a stream length. -/
def withLayout (g0 g1 : Word) (bits : Nat) (bytes : List Byte) : State :=
  { State.reset with
    groups := #v[Group.ofWord g0, Group.ofWord g1, Group.ofWord 0#32, Group.ofWord 0#32]
    data := Memory.writeList [] 0 bytes
    dataLenBits := BitVec.ofNat 16 bits }

/-- (ERR, ERR_CAUSE, ERR_INFO, BUSY, DONE) of a state. -/
def report (s : State) : Bool × BitVec 4 × Word × Bool × Bool := (s.err, s.errCause.code, s.errInfo, s.busy, s.done)

/-! ### Field commands (95 section 2.2) -/

theorem test_gfExp : [(0, 0x01), (7, 0x80), (8, 0x1D), (232, 0xF7), (254, 0x8E), (255, 0x01), (256, 0x02), (-1, 0x8E),
    (-255, 0x01), (32767, 0xCC), (-32768, 0xCC)].all
    (fun (p : Int × Nat) => (after (exec (.gfExp p.1) State.reset)).result == BitVec.ofNat 32 p.2) = true := by decide
theorem test_gfLog : [(1, 0), (2, 1), (3, 25), (0x1D, 8), (0x80, 7), (0x8E, 254), (0x8F, 24), (0xF7, 232), (0xFF, 175)].all
    (fun (p : Nat × Nat) => (after (exec (.gfLog (BitVec.ofNat 8 p.1)) State.reset)).result == BitVec.ofNat 32 p.2) = true := by
  decide
theorem test_gfLog_zero : report (after (exec (.gfLog 0#8) State.reset)) = (true, 3#4, 1#32, false, false) := by decide
theorem test_gfMul : [(3, 7, 0x09), (2, 0x80, 0x1D), (0xFF, 0xFF, 0xE2), (0x8E, 2, 0x01), (0x53, 0xCA, 0x8F), (1, 0x57, 0x57),
    (0x57, 0x83, 0x31)].all (fun (p : Nat × Nat × Nat) =>
      (after (exec (.gfMul (BitVec.ofNat 8 p.1) (BitVec.ofNat 8 p.2.1)) State.reset)).result == BitVec.ofNat 32 p.2.2) = true := by
  decide
theorem test_gfMul_zero : report (after (exec (.gfMul 5#8 0#8) State.reset)) = (true, 3#4, 1#32, false, false) := by decide

/-! ### Polynomial functions and commands (95 section 2.3) -/

theorem test_normalize : normalize [0x00#8, 0x00#8, 0x07#8, 0x00#8] 2 = [0x07#8, 0x00#8, 0x00#8, 0x00#8] := by decide
theorem test_normalize_zeros : normalize [0#8, 0#8, 0#8] 2 = [0#8, 0#8] := by decide
theorem test_polyMul : polyMul [1#8, 2#8] [1#8, 3#8] = some [1#8, 1#8, 6#8] := by decide
theorem test_polyMul_gen3 : polyMul [1#8, 3#8, 2#8] [1#8, 4#8] = some [0x01#8, 0x07#8, 0x0E#8, 0x08#8] := by decide
theorem test_polyMod : polyMod [0x01#8, 0xF6#8, 0#8, 0#8] [1#8, 3#8, 2#8] = some [0xF7#8] := by decide
theorem test_polyMod_c12 : polyMod [0x10#8, 0x20#8, 0#8, 0#8] [1#8, 3#8, 2#8] = some [0x10#8, 0x20#8] := by decide
theorem test_polyMod_short : polyMod [0#8, 5#8] [1#8, 3#8, 2#8] = some [0#8, 5#8] := by decide
theorem test_polyMod_equal : polyMod [1#8, 2#8, 3#8] [5#8, 6#8, 7#8] = some [0xF7#8, 0x51#8] := by decide
theorem test_polyGen_10 : polyGen 10 = some [0x01#8, 0xD8#8, 0xC2#8, 0x9F#8, 0x6F#8, 0xC7#8, 0x5E#8, 0x5F#8, 0x71#8, 0x9D#8,
    0xC1#8] := by decide
theorem test_polyNew : readPoly (after (exec (.polyNew .pa 2) (withPolys [0#8, 0#8, 7#8, 0#8] []))) .pa
    = [7#8, 0#8, 0#8, 0#8] := by decide
theorem test_polyNew_capacity : report (after (exec (.polyNew .pb 256) (withPolys [] [1#8]))) = (true, 5#4, 8#32, false, false) := by
  decide +kernel
theorem test_polyCopy : readPoly (after (exec (.polyCopy .pb .pa) (withPolys [1#8, 3#8, 2#8] []))) .pb = [1#8, 3#8, 2#8] := by
  decide
theorem test_polyCopy_capacity : report (after (exec (.polyCopy .pb .pa) { State.reset with paLen := 300#9 }))
    = (true, 5#4, 1#32, false, false) := by decide
theorem test_execPolyMul : readPoly (after (exec .polyMul (withPolys [5#8] [7#8]))) .pr = [0x1B#8] := by decide
theorem test_execPolyMul_domain : report (after (exec .polyMul (withPolys [1#8, 0#8, 2#8] [1#8]))) = (true, 3#4, 2#32, false, false) := by
  decide
theorem test_execPolyMod : readPoly (after (exec .polyMod (withPolys [5#8, 0#8, 0#8] [1#8, 3#8, 2#8]))) .pr = [0x0F#8, 0x0A#8] := by
  decide
/-- 95 section 2.3: an empty divisor is reported after the capacity checks. -/
theorem test_execPolyMod_order : report (after (exec .polyMod { State.reset with paLen := 257#9 })) = (true, 5#4, 1#32, false, false) := by
  decide
theorem test_execPolyGen : readPoly (after (exec (.polyGen 4) State.reset)) .pr = [0x01#8, 0x0F#8, 0x36#8, 0x78#8, 0x40#8] := by
  decide
theorem test_execPolyGen_capacity : report (after (exec (.polyGen 256) State.reset)) = (true, 5#4, 9#32, false, false) := by decide

/-! ### Encoder commands (95 sections 2.4, 2.5) -/

theorem test_ecBytes_front_fill : ecBytes [0x01#8, 0xF6#8] 2 = some [0x00#8, 0xF7#8] := by decide
theorem test_ecBytes_hello : ecBytes [0x40#8, 0x54#8, 0x84#8, 0x54#8, 0xC4#8, 0xC4#8, 0xF0#8, 0xEC#8, 0x11#8, 0xEC#8, 0x11#8,
    0xEC#8, 0x11#8, 0xEC#8, 0x11#8, 0xEC#8] 10
    = some [0x23#8, 0x73#8, 0x23#8, 0x99#8, 0xEC#8, 0x08#8, 0xC9#8, 0xF7#8, 0x37#8, 0xDF#8] := by decide
theorem test_finalize_slack3 : readBytes (after (exec .rsFinalize (withLayout 0x00020401#32 0#32 13 [0xFF#8, 0xFF#8]))) .data 0 2
    = [0xFF#8, 0xF8#8] := by decide
theorem test_finalize_pads : readBytes (after (exec .rsFinalize (withLayout 0x00030401#32 0#32 5 [0xFF#8]))) .data 0 3
    = [0xF8#8, 0x00#8, 0xEC#8] := by decide
theorem test_blocks : readBytes (after (exec .rsBlocks (withLayout 0x00010401#32 0x00030401#32 32 [1#8, 2#8, 3#8, 4#8]))) .ec 0 3
    = [0x07#8, 0x0E#8, 0x08#8] := by decide
theorem test_blocks_notFinalized : report (after (exec .rsBlocks (withLayout 0x00020401#32 0#32 15 []))) = (true, 6#4, 1#32, false, false) := by
  decide
theorem test_interleave : readBytes (after (exec .rsInterleave
      { withLayout 0x00020401#32 0x00030501#32 40 [0x10#8, 0x20#8, 0x30#8, 0x40#8, 0x50#8] with
        ecv := true, ec := [(0, 0x10#8), (1, 0x20#8), (256, 0x20#8), (257, 0x00#8)] })) .cw 0 9
    = [0x10#8, 0x30#8, 0x20#8, 0x40#8, 0x50#8, 0x10#8, 0x20#8, 0x20#8, 0x00#8] := by decide
/-- 95 section 2.5: SEQUENCE 3 comes before SEQUENCE 2. -/
theorem test_interleave_order : report (after (exec .rsInterleave (withLayout 0x00020401#32 0#32 15 [])))
    = (true, 6#4, 3#32, false, false) := by decide
theorem test_encode_hello : readBytes (after (exec .rsEncode (withLayout 0x00101A01#32 0#32 52
      [0x40#8, 0x54#8, 0x84#8, 0x54#8, 0xC4#8, 0xC4#8, 0xF0#8]))) .cw 14 12
    = [0x11#8, 0xEC#8, 0x23#8, 0x73#8, 0x23#8, 0x99#8, 0xEC#8, 0x08#8, 0xC9#8, 0xF7#8, 0x37#8, 0xDF#8] := by decide
theorem test_encode_capacity : report (after (exec .rsEncode (withLayout 0x00C8FF11#32 0#32 0 []))) = (true, 5#4, 6#32, false, false) := by
  decide
/-- 95 section 2.5: the first group with DATA above TOTAL is the one reported. -/
theorem test_layout_group : report (after (exec .rsFinalize (withLayout 0x00020401#32 0x00050301#32 0 []))) = (true, 2#4, 0x11#32, false, false) := by
  decide

/-! ### Mask commands (95 section 2.6) -/

theorem test_rule1_corner : [sameNeighbours (fun _ _ => false) 21 0 0, sameNeighbours (fun _ _ => false) 21 0 5,
    sameNeighbours (fun _ _ => false) 21 5 5] = [3, 5, 8] := by decide
theorem test_rule2_light : penaltyRule2 (fun _ _ => false) 21 = 1200 := by decide
/-- Matrix M6: row 0, columns 0 to 6 are the signature, all else light. -/
theorem test_rule3_m6 : penaltyRule3 (fun r c => r == 0 && finderSignature.getD c false) 21 = 40 := by decide
theorem test_rule4_modes : [penaltyRule4 .exactRatio 199 21, penaltyRule4 .truncPercent 199 21, penaltyRule4 .exactRatio 441 21,
    penaltyRule4 .exactRatio 294 21] = [0, 10, 100, 30] := by decide
/-- All light, 5 x 5, by hand from R301: the 9 interior cells have 8 same-colour neighbours and score 6 each. -/
theorem test_rule1_light : penaltyRule1 (fun _ _ => false) 5 = 54 := by decide
/-- Matrix M6 in MAT, scored as trial 5 (95 section 2.6): rules 3 and 4. -/
theorem test_maskEval_m6 : (fun s : State => [s.penR3, s.penR4]) (after (exec (.maskEval 5)
      { State.reset with
        matSize := 21#8
        mat := (List.range 21).map (fun r => (6 * r, if r = 0 then 0xBA000000#32 else 0#32)) }))
    = [40#32, 90#32] := by decide +kernel
theorem test_maskEval_side : [0, 20, 22, 178, 255].all (fun n =>
    report (after (exec (.maskEval 3) { State.reset with matSize := BitVec.ofNat 8 n })) == (true, 2#4, 2#32, false, false)) = true := by
  decide
theorem test_maskSelect_tie : selWord (after (exec .maskSelect { State.reset with
      penValid := 0xFF#8, pens := #v[500#32, 420#32, 610#32, 420#32, 800#32, 999#32, 421#32, 700#32] })) = 0x80000001#32 := by
  decide
theorem test_maskSelect_sequence : report (after (exec .maskSelect { State.reset with penValid := 0x7F#8 }))
    = (true, 6#4, 4#32, false, false) := by decide
theorem test_maskClear : (after (exec .maskClear { State.reset with
      penValid := 0xFF#8, selValid := true, pens := #v[1#32, 2#32, 3#32, 4#32, 5#32, 6#32, 7#32, 8#32] })).pens[7] = 0#32 := by
  decide

/-! ### Host accesses (95 section 2.7) -/

/-- (AERR, AERR_CAUSE, AERR_ADDR) of a state. -/
def accessReport (s : State) : Bool × BitVec 3 × BitVec 12 := (s.aerr, s.aerrCause.code, s.aerrAddr)

theorem test_read_id : (hostRead State.reset 32 0x000#12).2 = 0x52534D01#32 := by decide
theorem test_write_id : accessReport (hostWrite State.reset 32 0x000#12 0#32) = (true, 3#3, 0x000#12) := by decide
theorem test_read_unmapped : accessReport (hostRead State.reset 32 0x0A0#12).1 = (true, 4#3, 0x0A0#12) := by decide
theorem test_read_size : accessReport (hostRead State.reset 32 0x006#12).1 = (true, 5#3, 0x006#12) := by decide
theorem test_write_bufData_readOnly : accessReport (hostWrite { State.reset with bufSel := 3#4 } 32 0x028#12 0x55#32)
    = (true, 3#3, 0x028#12) := by decide
theorem test_write_bufData_last : bufAddrWord (hostWrite { State.reset with bufSel := 1#4, bufIndex := 0xFF#16 } 32 0x028#12 0x1AB#32)
    = 0x00010100#32 := by decide
theorem test_write_bufData_byte : readByte (hostWrite { State.reset with bufSel := 1#4, bufIndex := 0xFF#16 } 32 0x028#12 0x1AB#32)
    .pa 255 = 0xAB#8 := by decide
theorem test_read_bufData_bounds : accessReport (hostRead { State.reset with bufSel := 5#4, bufIndex := 0x8000#16 } 32 0x028#12).1
    = (true, 2#3, 0x028#12) := by decide
theorem test_write_matData : matAddrWord (hostWrite { State.reset with matSize := 33#8, matWord := 1#3 } 32 0x064#12 7#32)
    = 0x00000001#32 := by decide
theorem test_read_matData_bounds : accessReport (hostRead { State.reset with matSize := 21#8, matWord := 1#3 } 32 0x064#12).1
    = (true, 2#3, 0x064#12) := by decide
theorem test_busy_cmd : accessReport (hostWrite { State.reset with busy := true } 32 0x00C#12 0#32) = (true, 1#3, 0x00C#12) := by
  decide
theorem test_busy_unmapped : accessReport (hostRead { State.reset with busy := true } 32 0x0A0#12).1 = (true, 4#3, 0x0A0#12) := by
  decide
theorem test_write_status : statusWord (hostWrite { State.reset with busy := true, done := true, aerr := true, ecv := true }
    32 0x004#12 0x0000000E#32) = 0x00000011#32 := by decide
theorem test_soft_reset : statusWord (hostWrite { State.reset with busy := true, ecv := true } 32 0x008#12 0x80000000#32) = 0#32 := by
  decide

/-! ### Issue and the step -/

/-- 95 section 2.8: NOP after an error leaves STATUS = 2 and clears ERR_CAUSE. -/
theorem test_step_nop : statusWord (after (step ({ State.reset with err := true, errCause := .domainError }.withFetchWord 32 0))) = 2#32 := by
  decide
theorem test_step_illegal : report (after (step (State.reset.withFetchWord 32 0x04000000))) = (true, 1#4, 0x04000000#32, false, false) := by
  decide
theorem test_step_issue : (after (step { State.reset with host := expandPseudo (.run (.polyGen 2)) })).lastCmd = 0x14000002#32 := by
  decide
/-- R334, R412: the host's turn comes before the completion, so the WAIT reads BUSY = 1 and stays pending. -/
theorem test_step_wait : (after (step { State.reset with busy := true, host := [.waitIdle], turns := [.host] })).host
    = [.waitIdle] := by decide

/-! ### Witnesses: states and operands that meet the hypotheses of the statements of Obligations.lean, and reach each of their
clauses, at the boundaries. NOTES.md lists them by statement. -/

/-- An outcome of the meaning is the next state `after` gives. -/
def answers (i : Instr) (s : State) : Prop := exec i s = .next (after (exec i s))

/-- Reset with the two length registers set; the bytes of the buffers are draws. -/
def withLens (la lb : BitVec 9) : State := { State.reset with paLen := la, pbLen := lb }

/-- A layout state whose error-correction store is marked valid. -/
def withEcv (g0 g1 : Word) (bits : Nat) : State := { withLayout g0 g1 bits [] with ecv := true }

theorem test_hyp_stepRuns : nextAgent { issue 0x140000FF#32 State.reset with turns := [.engine] } = .engine
    ∧ (issue 0x140000FF#32 State.reset).busy = true
    ∧ decode (issue 0x140000FF#32 State.reset).lastCmd = .ok (.polyGen 255) := by decide
theorem test_hyp_stepReports : nextAgent (issue 0x00000001#32 State.reset) = .engine
    ∧ (issue 0x00000001#32 State.reset).busy = true
    ∧ decode (issue 0x00000001#32 State.reset).lastCmd = .error .mustBeZero := by decide
theorem test_hyp_idle : State.reset.busy = false ∧ nextAgent { State.reset with turns := [.engine] } = .engine := by decide
theorem test_hyp_inFlight : { issue 0x00000000#32 State.reset with turns := [.host, .host] }.busy = true := by decide
theorem test_hyp_writingCmd : State.reset.busy = false ∧ isMaskEval 0x30000007#32 = true ∧ isMaskEval 0x31000000#32 = false := by
  decide
/-- Both ways a command ends. -/
theorem test_hyp_commandEnds : exec .nop State.reset = .next { State.reset with done := true }
    ∧ exec (.gfLog 0#8) State.reset = .next (afterError .domainError 1 State.reset) := ⟨rfl, rfl⟩
theorem test_hyp_nop : (0x00FFFFFF#32).extractLsb' 24 8 = 0x00#8 ∧ decode 0x00FFFFFF#32 = .error .mustBeZero := by decide
theorem test_hyp_reset : regValue (hostTurn { issue 0x01000008#32 State.reset with host := [.resetInput], result := 5#32 }) .result = 0#32
    ∧ regValue State.reset .id = 0x52534D01#32 := by decide
theorem test_hyp_ctrl : (0x80000000#32).getLsbD 31 = true ∧ (0x7FFFFFFF#32).getLsbD 31 = false := by decide
theorem test_hyp_softReset : answers .maskClear (issue 0x32000000#32 State.reset) := rfl

theorem test_hyp_flagsOk : (fun s => flagsOk s ∧ step s = .next (after (step s)))
    { State.reset with busy := true, aerr := true, lastCmd := 0x00000000#32 } := ⟨by decide, rfl⟩
/-- Every memory written at its last place, and the lengths at their bounds. -/
theorem test_hyp_memoryOk : (fun s => (memoryOk s ∧ lengthsOk s) ∧ step s = .next (after (step s)))
    { State.reset with
      data := [(0, 1#8), (4095, 0#8)], pa := [(255, 1#8)], pb := [(255, 2#8)], pr := [(255, 3#8)], cw := [(4095, 4#8)]
      ec := [(32767, 5#8)], mat := [(1061, 6#32)], prLen := 256#9, cwLen := 4096#16 } := ⟨by decide, rfl⟩
theorem test_hyp_ecvOk : (fun s => (ecvOk s ∧ s.ecv = true) ∧ step s = .next (after (step s))) (withEcv 0x00020401#32 0#32 16) := ⟨by decide, rfl⟩
theorem test_hyp_selectionOk : (fun s => (selectionOk s ∧ s.selValid = true) ∧ step s = .next (after (step s)))
    { State.reset with penValid := 0xFF#8, selValid := true, selMask := 7#3 } := ⟨by decide, rfl⟩
theorem test_hyp_recordOk : (fun s => (recordOk s ∧ s.err = true ∧ s.aerr = true) ∧ step s = .next (after (step s)))
    { State.reset with err := true, aerr := true, cmdErrors := [domainError 1], accessErrors := [⟨.size, 6#12⟩] } := ⟨by decide, rfl⟩

/-- The ends of the ranges of R201 and R202: indexes 7, 8, 254, 255 and the factors 1 and 0xFF. -/
theorem test_hyp_field : [expEntry 7, expEntry 8, expEntry 254, expEntry 255] = [0x80#8, 0x1D#8, 0x8E#8, 0x01#8]
    ∧ gfLog 0x01#8 = some 0 ∧ gfLog 0x8E#8 = some 254 ∧ gfLog 0x00#8 = none ∧ (0xFF#8 : Byte) ≠ 0#8 := by decide

theorem test_clauses_normalize : normalize [0#8, 0#8] 0 = [] ∧ normalize [] 1 = [0#8] ∧ normalize [1#8, 0#8] 0 = [1#8, 0#8] := by
  decide
theorem test_clauses_polyNew : report (after (exec (.polyNew .pa 0) (withLens 257#9 0#9))) = (true, 5#4, 1#32, false, false)
    ∧ report (after (exec (.polyNew .pb 0) (withLens 511#9 257#9))) = (true, 5#4, 2#32, false, false)
    ∧ (after (exec (.polyNew .pb 255) (withPolys [] [1#8]))).pbLen = 256#9
    ∧ report (after (exec (.polyNew .pr 256) (withLens 511#9 511#9))) = (false, 0#4, 0#32, false, true)
    ∧ report (after (exec (.polyNew .pr 257) (withLens 0#9 0#9))) = (true, 5#4, 8#32, false, false) := by decide +kernel
theorem test_clauses_polyCopy : report (after (exec (.polyCopy .pr .pa) (withLens 257#9 0#9))) = (true, 5#4, 1#32, false, false)
    ∧ report (after (exec (.polyCopy .pr .pb) (withLens 0#9 257#9))) = (true, 5#4, 2#32, false, false)
    ∧ (after (exec (.polyCopy .pr .pa) (withLens 256#9 511#9))).prLen = 256#9
    ∧ (after (exec (.polyCopy .pa .pr) (withLens 511#9 511#9))).paLen = 0#9 := by decide +kernel
theorem test_clauses_polyMul : report (after (exec .polyMul (withLens 257#9 511#9))) = (true, 5#4, 1#32, false, false)
    ∧ report (after (exec .polyMul (withLens 256#9 257#9))) = (true, 5#4, 2#32, false, false)
    ∧ report (after (exec .polyMul (withLens 200#9 58#9))) = (true, 5#4, 3#32, false, false)
    ∧ report (after (exec .polyMul (withPolys (List.replicate 200 1#8) (List.replicate 57 0#8)))) = (true, 3#4, 2#32, false, false)
    ∧ (after (exec .polyMul (withLens 256#9 0#9))).done = true
    ∧ (after (exec .polyMul (withPolys [1#8, 2#8] [1#8]))).prLen = 2#9 := by decide +kernel
theorem test_clauses_polyMod : report (after (exec .polyMod (withLens 257#9 0#9))) = (true, 5#4, 1#32, false, false)
    ∧ report (after (exec .polyMod (withLens 256#9 257#9))) = (true, 5#4, 2#32, false, false)
    ∧ report (after (exec .polyMod (withLens 0#9 0#9))) = (true, 3#4, 4#32, false, false)
    ∧ report (after (exec .polyMod (withPolys [0#8] [1#8]))) = (true, 3#4, 3#32, false, false)
    ∧ report (after (exec .polyMod (withPolys [1#8, 1#8] [1#8, 0#8]))) = (true, 3#4, 3#32, false, false)
    ∧ readPoly (after (exec .polyMod (withPolys [0#8] [1#8, 0#8]))) .pr = [0#8]
    ∧ readPoly (after (exec .polyMod (withPolys [5#8] [1#8]))) .pr = [] := by decide +kernel
theorem test_clauses_polyGen : readPoly (after (exec (.polyGen 0) State.reset)) .pr = [1#8]
    ∧ report (after (exec (.polyGen 511) State.reset)) = (true, 5#4, 9#32, false, false) := by decide

/-- The layout faults and their limits: no block, DATA above TOTAL, 129 and 128 blocks, 4097 and 4096 data codewords. -/
theorem test_clauses_layoutFault : layoutFault State.reset = some (.configError, 0x1)
    ∧ layoutFault (withLayout 0x00020100#32 0x00020101#32 0 []) = some (.configError, 0x11)
    ∧ layoutFault (withLayout 0x0001FF80#32 0x00000001#32 0 []) = some (.capacity, 7)
    ∧ layoutFault (withLayout 0x0000FF80#32 0x00000000#32 0 []) = none
    ∧ layoutFault (withLayout 0x00F1F111#32 0#32 0 []) = some (.capacity, 5)
    ∧ layoutFault (withLayout 0x00808020#32 0#32 0 []) = none := by decide +kernel
/-- R264 in its order: CAPACITY 4 at 32769 bits, ENCODING_OVERFLOW one bit above 8 T, completion at 8 T. -/
theorem test_clauses_rsFinalize : report (after (exec .rsFinalize (withLayout 0x00020401#32 0#32 32769 []))) = (true, 5#4, 4#32, false, false)
    ∧ report (after (exec .rsFinalize (withLayout 0x00020401#32 0#32 17 []))) = (true, 4#4, 17#32, false, false)
    ∧ report (after (exec .rsFinalize (withLayout 0x00020401#32 0#32 16 []))) = (false, 0#4, 0#32, false, true)
    ∧ (after (exec .rsFinalize (withLayout 0x00020401#32 0#32 16 []))).cmdErrors = [] := by decide +kernel
theorem test_clauses_rsBlocks : report (after (exec .rsBlocks (withLayout 0x00020401#32 0#32 17 []))) = (true, 6#4, 1#32, false, false)
    ∧ (after (exec .rsBlocks (withLayout 0x00000001#32 0x00000201#32 0 []))).ecv = true
    ∧ (blocks (withLayout 0x00000001#32 0x00000201#32 0 []))[1]? = some { t := 2, d := 0 } := by decide +kernel
/-- R267 in its order: 4097 codewords, unfinalized data, no valid error-correction store, completion at 4096. -/
theorem test_clauses_rsInterleave : report (after (exec .rsInterleave (withEcv 0x0001F111#32 0#32 0))) = (true, 5#4, 6#32, false, false)
    ∧ report (after (exec .rsInterleave (withEcv 0x00020401#32 0#32 15))) = (true, 6#4, 3#32, false, false)
    ∧ report (after (exec .rsInterleave (withLayout 0x00020401#32 0#32 16 []))) = (true, 6#4, 2#32, false, false)
    ∧ ¬ 4096 < totalCw (withEcv 0x00008020#32 0#32 0) ∧ layoutFault (withEcv 0x00008020#32 0#32 0) = none
    ∧ (after (exec .rsInterleave (withEcv 0x00020401#32 0#32 16))).cwLen = 4#16 := by decide +kernel
/-- R268: CAPACITY 4 before CAPACITY 6 before ENCODING_OVERFLOW. -/
theorem test_clauses_rsEncode : report (after (exec .rsEncode (withLayout 0x0001F111#32 0#32 32769 []))) = (true, 5#4, 4#32, false, false)
    ∧ report (after (exec .rsEncode (withLayout 0x0001F111#32 0#32 32768 []))) = (true, 5#4, 6#32, false, false)
    ∧ report (after (exec .rsEncode (withLayout 0x00020401#32 0#32 17 []))) = (true, 4#4, 17#32, false, false)
    ∧ (after (exec .rsEncode (withLayout 0x00010201#32 0#32 8 [7#8]))).cwLen = 2#16 := by decide +kernel
theorem test_hyp_ecBytes : ecBytes [5#8] 0 = some [] ∧ ecBytes [] 2 = some [0#8, 0#8] := by decide
/-- R263 on lists of 1 and 2: element 1 of the second sequence stands after the whole first round. -/
theorem test_hyp_interleave : interleave [[1#8], [2#8, 3#8]] [[4#8], [], [5#8]] = [1#8, 2#8, 3#8, 4#8, 5#8]
    ∧ roundPosition [[1#8], [2#8, 3#8]] 1 1 = 2 ∧ roundPosition [[4#8], [], [5#8]] 0 2 = 1 := by decide
theorem test_hyp_noRsCommand : Instr.rsBlocks ∈ [Instr.rsFinalize, .rsBlocks, .rsInterleave, .rsEncode]
    ∧ answers .rsBlocks State.reset := ⟨by decide, rfl⟩

/-- R304 at the ends of the range: no light cell and all 31329 of a side of 177. -/
theorem test_hyp_rule4 : (0 < 177 ∧ 0 ≤ 177 ^ 2 ∧ 31329 ≤ 177 ^ 2)
    ∧ penaltyRule4 .exactRatio 0 177 = 100 ∧ penaltyRule4 .truncPercent 31329 177 = 100 := by decide
/-- R300: the least and the greatest side are legal; 20, 22 and 178 are not. -/
theorem test_clauses_maskEval : 21 = 4 * 1 + 17 ∧ 177 = 4 * 40 + 17
    ∧ [20, 21, 22, 177, 178].map badSide = [true, false, true, false, true] := by decide
/-- Two states that differ in a row below a matrix of side 21 only. -/
theorem test_hyp_maskEvalIgnores : (∀ r c, r < 21 → c < 21 →
      matCell { State.reset with matSize := 21#8, mat := [(126, 1#32)] } r c = matCell { State.reset with matSize := 21#8 } r c)
    ∧ (∃ v, 1 ≤ v ∧ v ≤ 40 ∧ (21#8).toNat = 4 * v + 17) := by
  refine ⟨fun r c hr hc => ?_, 1, by decide⟩
  have h : ¬ matIndex r (c / 32) = 126 := by
    simp only [matIndex, Config.matWords]
    omega
  simp [matCell, readMatWord, Memory.read, h, State.reset]
theorem test_hyp_maskEval_next (k : Nat) (s : State) : answers (.maskEval k) s := by
  obtain ⟨t, h⟩ := complete_next [(badSide (side s), configError 0x2)] (.ok (recordPenalty k (ruleScores s) s)) s
  simp only [answers, exec, execMaskEval, h, after]

/-- R411 clause by clause, at the boundaries, on an idle device. -/
theorem test_clauses_access_idle : [accessCheck State.reset .read 16 0x000#12, accessCheck State.reset .read 32 0x09E#12,
      accessCheck State.reset .read 32 0x0A0#12, accessCheck State.reset .read 32 0xFFC#12,
      accessCheck State.reset .read 32 0x09C#12, accessCheck State.reset .write 32 0x09C#12,
      accessCheck State.reset .write 32 0x068#12, accessCheck State.reset .write 32 0x060#12,
      accessCheck State.reset .write 32 0x064#12]
    = [some .size, some .size, some .unmapped, some .unmapped, none, some .readOnly, some .readOnly, none, some .bounds] := by
  decide
/-- R411, R113 on a busy device: SIZE and UNMAPPED still come first, CMD reads and STATUS and CTRL writes are performed. -/
theorem test_clauses_access_busy : [accessCheck (issue 0#32 State.reset) .write 8 0x020#12,
      accessCheck (issue 0#32 State.reset) .read 32 0x0A0#12, accessCheck (issue 0#32 State.reset) .read 32 0x00C#12,
      accessCheck (issue 0#32 State.reset) .read 32 0x010#12, accessCheck (issue 0#32 State.reset) .write 32 0x000#12,
      accessCheck (issue 0#32 State.reset) .write 32 0x004#12, accessCheck (issue 0#32 State.reset) .write 32 0x008#12,
      accessCheck (issue 0#32 State.reset) .write 32 0x00C#12]
    = [some .size, some .unmapped, none, some .busy, some .busy, none, none, some .busy] := by decide
/-- R102: the last place of every buffer and the first beyond it, for a read. -/
theorem test_clauses_bufPort : [(0, 4095), (1, 255), (2, 255), (3, 255), (4, 4095), (5, 32767)].all (fun (p : Nat × Nat) =>
      accessCheck { State.reset with bufSel := BitVec.ofNat 4 p.1, bufIndex := BitVec.ofNat 16 p.2 } .read 32 0x028#12 == none
      && accessCheck { State.reset with bufSel := BitVec.ofNat 4 p.1, bufIndex := BitVec.ofNat 16 (p.2 + 1) } .write 32 0x028#12
        == some .bounds) = true
    ∧ accessCheck { State.reset with bufSel := 6#4 } .read 32 0x028#12 = some .unmapped
    ∧ [0, 1, 2, 3, 4, 5].map (fun k => accessCheck { State.reset with bufSel := BitVec.ofNat 4 k } .write 32 0x028#12)
      = [none, none, none, some .readOnly, some .readOnly, some .readOnly] := by decide
/-- R107, R108: the last word of the greatest matrix, whose row ends there, and the word before it. -/
theorem test_hyp_matData : (fun s : State => s.busy = false ∧ s.matRow.toNat < min s.matSize.toNat 177
      ∧ s.matWord.toNat < (min s.matSize.toNat 177 + 31) / 32 ∧ ¬ s.matWord.toNat + 1 < (min s.matSize.toNat 177 + 31) / 32)
      { State.reset with matSize := 255#8, matRow := 176#8, matWord := 5#3 }
    ∧ (4#3).toNat + 1 < (min (255#8).toNat 177 + 31) / 32
    ∧ accessCheck { State.reset with matSize := 255#8, matRow := 177#8 } .read 32 0x064#12 = some .bounds
    ∧ accessCheck { State.reset with matSize := 255#8, matWord := 6#3 } .read 32 0x064#12 = some .bounds := by decide
theorem test_hyp_bufData : [Buf.data, .pa, .pb, .pr, .cw, .ec].all (fun b =>
      decide ((BitVec.ofNat 4 b.sel).toNat = b.sel) && decide ((BitVec.ofNat 16 (b.cap - 1)).toNat < b.cap)) = true := by decide
theorem test_hyp_reads : accessCheck State.reset .read 32 0x004#12 = none ∧ (0x004#12 : BitVec 12) ≠ 0x028#12
    ∧ (0x004#12 : BitVec 12) ≠ 0x064#12 := by decide
/-- R33, R59, R401, R410, R60, R61 by the register map: words read at their offsets, the fields at their greatest values. -/
theorem test_clauses_readWords : (fun s : State => [0x004#12, 0x010#12, 0x018#12, 0x01C#12, 0x06C#12, 0x07C#12, 0x080#12, 0x09C#12].map
        (fun o => (hostRead s 32 o).2))
      { State.reset with
        done := true, aerr := true, ecv := true, errCause := .sequence, aerrCause := .size, aerrAddr := 0xFFF#12
        selValid := true, selMask := 7#3, penR4 := 4#32, pens := #v[10#32, 11#32, 12#32, 13#32, 14#32, 15#32, 16#32, 17#32] }
    = [0x0000001A#32, 6#32, 5#32, 0x00000FFF#32, 0x80000007#32, 4#32, 10#32, 17#32] := by decide
/-- R43, R45, R56: all bits written, the reserved ones ignored. -/
theorem test_clauses_plainWrites : (hostWrite State.reset 32 0x024#12 0xFFFFFFFF#32).bufSel = 15#4
    ∧ (hostWrite State.reset 32 0x02C#12 0xFFFFFFFF#32).paLen = 511#9
    ∧ (hostRead (hostWrite State.reset 32 0x060#12 0xFFFFFFFF#32) 32 0x060#12).2 = 0x000007FF#32 := by decide
/-- A turn of the host, listed or by default, with every kind of input pending (R155, R450). -/
theorem test_hyp_hostTurn : nextAgent { issue 0#32 State.reset with turns := [.host] } = .host ∧ nextAgent State.reset = .host
    ∧ nextAgent (issue 0#32 State.reset) = .engine
    ∧ (after (step { State.reset with host := [.read 32 0x000#12, .waitIdle] })).replies = [0x52534D01#32]
    ∧ (after (step { State.reset with host := [.write 32 0x05C#12 21#32] })).matSize = 21#8
    ∧ (after (step { State.reset with host := [.waitIdle] })).host = []
    ∧ (after (step { State.reset with matSize := 21#8, host := [.resetInput] })).matSize = 0#8 := by decide
/-- Accesses made while a NOP is in flight that leave it in flight: one performed, one rejected, one WAIT. -/
theorem test_hyp_hostCannotDisturb : [HostInput.write 32 0x008#12 0x0000000F#32, .write 32 0x028#12 0#32, .waitIdle].all (fun a =>
      (issue 0#32 { State.reset with host := [a] }).busy && (hostTurn (issue 0#32 { State.reset with host := [a] })).busy) = true
    ∧ answers .nop (issue 0#32 State.reset) := ⟨by decide, rfl⟩

end Sys2Proof.Tests
end

section
/-! PROOFS. The register window, one rule per kind of access: which 32-bit accesses at a register's offset are performed,
what they return and what they leave unchanged. The statements about single registers (10_state.md) follow from these. -/

namespace Sys2Proof.Machine

/-! ### The register map -/

/-- The offset of a register is its own in the map (the other direction of `regAt_regOffset`). -/
theorem regOffset_of_regAt {o : BitVec 12} {r : Reg} (h : regAt o = some r) : BitVec.ofNat 12 (regOffset r) = o := by
  have hr : regOffset r = o.toNat := by simpa using List.find?_some h
  rw [hr, BitVec.ofNat_toNat, BitVec.setWidth_eq]

/-- Every register of the map is 32-bit aligned. -/
theorem regOffset_aligned (r : Reg) : (BitVec.ofNat 12 (regOffset r)).toNat % 4 = 0 := by
  cases r with
  | group k => fin_cases k <;> decide
  | penR k => fin_cases k <;> decide
  | pen k => fin_cases k <;> decide
  | _ => decide

/-- A 32-bit access at a register's offset passes SIZE and UNMAPPED; the later checks of R411 stay. -/
theorem accessCheck_regOffset (s : State) (dir : Dir) (r : Reg) :
    accessCheck s dir 32 (BitVec.ofNat 12 (regOffset r))
      = if s.busy = true ∧ allowedWhileBusy dir r = false then some .busy
        else if dir = .write ∧ regReadOnly r = true then some .readOnly
        else portCheck s dir r := by
  simp only [accessCheck, regAt_regOffset, regOffset_aligned, ne_eq, not_true_eq_false, or_self, if_false]

/-- Only the two ports have checks of their own. -/
theorem portCheck_of_not_port (s : State) (dir : Dir) {r : Reg} (hbuf : r ≠ .bufData) (hmat : r ≠ .matData) :
    portCheck s dir r = none := by
  cases r with
  | bufData => exact absurd rfl hbuf
  | matData => exact absurd rfl hmat
  | _ => rfl

/-- Only reads of the two ports have a side effect (R112). -/
theorem afterRead_of_not_port (s : State) {r : Reg} (hbuf : r ≠ .bufData) (hmat : r ≠ .matData) : afterRead s r = s := by
  cases r with
  | bufData => exact absurd rfl hbuf
  | matData => exact absurd rfl hmat
  | _ => rfl

/-- A 32-bit read of a register that is no port returns its value and changes nothing, while BUSY = 0 or where R113 allows
it. -/
theorem hostRead_regOffset {s : State} (r : Reg) (hbusy : s.busy = false ∨ allowedWhileBusy .read r = true)
    (hbuf : r ≠ .bufData := by nofun) (hmat : r ≠ .matData := by nofun) :
    hostRead s 32 (BitVec.ofNat 12 (regOffset r)) = (s, regValue s r) := by
  have hcheck : accessCheck s .read 32 (BitVec.ofNat 12 (regOffset r)) = none := by
    rcases hbusy with h | h <;> simp [accessCheck_regOffset, portCheck_of_not_port s _ hbuf hmat, h]
  rw [hostRead, hcheck, regAt_regOffset]
  simp only [afterRead_of_not_port s hbuf hmat]

/-- A 32-bit write of a writable register that is no port is performed, while BUSY = 0 or where R113 allows it. -/
theorem hostWrite_regOffset {s : State} (r : Reg) (v : Word) (hbusy : s.busy = false ∨ allowedWhileBusy .write r = true)
    (hro : regReadOnly r = false := by rfl) (hbuf : r ≠ .bufData := by nofun) (hmat : r ≠ .matData := by nofun) :
    hostWrite s 32 (BitVec.ofNat 12 (regOffset r)) v = afterWrite s v r := by
  have hcheck : accessCheck s .write 32 (BitVec.ofNat 12 (regOffset r)) = none := by
    rcases hbusy with h | h <;> simp [accessCheck_regOffset, portCheck_of_not_port s _ hbuf hmat, hro, h]
  rw [hostWrite, hcheck, regAt_regOffset]

/-- A 32-bit read of a register that is no port, right after its write on an idle device that the write leaves idle, returns
the register's value after the write. -/
theorem hostRead_hostWrite {s : State} (r : Reg) (v : Word) (hidle : s.busy = false)
    (hidle' : (afterWrite s v r).busy = false)
    (hro : regReadOnly r = false := by rfl) (hbuf : r ≠ .bufData := by nofun) (hmat : r ≠ .matData := by nofun) :
    (hostRead (hostWrite s 32 (BitVec.ofNat 12 (regOffset r)) v) 32 (BitVec.ofNat 12 (regOffset r))).2
      = regValue (afterWrite s v r) r := by
  rw [hostWrite_regOffset r v (.inl hidle) hro hbuf hmat, hostRead_regOffset r (.inl hidle') hbuf hmat]

/-! ### Words put together from fields -/

/-- The number a concatenation of two fields spells. -/
theorem toNat_append_eq_add {m n : Nat} (x : BitVec m) (y : BitVec n) :
    (x ++ y).toNat = 2 ^ n * x.toNat + y.toNat := by
  rw [BitVec.toNat_append, ← Nat.shiftLeft_add_eq_or_of_lt y.isLt, Nat.shiftLeft_eq, Nat.mul_comm]

/-- The word of a number is known by the number it spells. -/
theorem eq_ofNat_of_toNat_eq {n : Nat} {x : BitVec n} {k : Nat} (h : x.toNat = k) : x = BitVec.ofNat n k := by
  rw [← h, BitVec.ofNat_toNat, BitVec.setWidth_eq]

/-- A word whose bits above the lowest n are cleared spells v modulo 2^n. -/
theorem toNat_and_lowBits (v : Word) (n : Nat) (hn : n < 32) :
    (v &&& BitVec.ofNat 32 (2 ^ n - 1)).toNat = v.toNat % 2 ^ n := by
  have hlt : 2 ^ n - 1 < 2 ^ 32 := by
    have := Nat.pow_lt_pow_right (a := 2) (by omega) hn
    omega
  rw [BitVec.toNat_and, BitVec.toNat_ofNat, Nat.mod_eq_of_lt hlt, Nat.and_two_pow_sub_one_eq_mod]

/-- Writing a register of one field of n low bits and reading it back clears the bits above (R62). -/
theorem setWidth_extractLsb'_eq_and (v : Word) (n : Nat) (hn : n < 32) :
    (v.extractLsb' 0 n).setWidth 32 = v &&& BitVec.ofNat 32 (2 ^ n - 1) := by
  have hlt : v.toNat % 2 ^ n < 2 ^ 32 := by have := Nat.mod_le v.toNat (2 ^ n); have := v.isLt; omega
  apply BitVec.eq_of_toNat_eq
  rw [toNat_and_lowBits v n hn, BitVec.toNat_setWidth, BitVec.extractLsb'_toNat, Nat.shiftRight_zero,
    Nat.mod_eq_of_lt hlt]

theorem toNat_bufAddrWord (s : State) : (bufAddrWord s).toNat = 65536 * s.bufSel.toNat + s.bufIndex.toNat := by
  rw [bufAddrWord, toNat_append_eq_add, toNat_append_eq_add]
  simp

theorem Group.toNat_word (g : Group) : g.word.toNat = 65536 * g.data.toNat + 256 * g.total.toNat + g.count.toNat := by
  rw [Group.word, toNat_append_eq_add, toNat_append_eq_add, toNat_append_eq_add]
  simp
  omega

theorem toNat_matAddrWord (s : State) : (matAddrWord s).toNat = 256 * s.matWord.toNat + s.matRow.toNat := by
  rw [matAddrWord, toNat_append_eq_add, toNat_append_eq_add]
  simp

theorem toNat_statusWord (s : State) : (statusWord s).toNat
    = s.busy.toNat + 2 * s.done.toNat + 4 * s.err.toNat + 8 * s.aerr.toNat + 16 * s.ecv.toNat := by
  rw [statusWord, toNat_append_eq_add, toNat_append_eq_add, toNat_append_eq_add, toNat_append_eq_add, toNat_append_eq_add]
  simp
  omega

theorem toNat_ctrlWord (s : State) : (ctrlWord s).toNat
    = s.ieDone.toNat + 2 * s.ieErr.toNat + 4 * s.ieAerr.toNat + 8 * s.r4mode.bit.toNat := by
  rw [ctrlWord, toNat_append_eq_add, toNat_append_eq_add, toNat_append_eq_add, toNat_append_eq_add]
  simp
  omega

theorem toNat_selWord (s : State) : (selWord s).toNat = 2 ^ 31 * s.selValid.toNat + s.selMask.toNat := by
  rw [selWord, toNat_append_eq_add, toNat_append_eq_add]
  simp
  omega

theorem toNat_aerrAddrWord (s : State) : (aerrAddrWord s).toNat = s.aerrAddr.toNat := by
  rw [aerrAddrWord, toNat_append_eq_add]
  simp

/-- A written GROUP word is read back with its bits 31:24 cleared (R50). -/
theorem Group.word_ofWord (v : Word) : (Group.ofWord v).word = v &&& 0x00FFFFFF#32 := by
  apply BitVec.eq_of_toNat_eq
  have hmask : (v &&& 0x00FFFFFF#32).toNat = v.toNat % 2 ^ 24 := toNat_and_lowBits v 24 (by omega)
  rw [Group.toNat_word, hmask]
  simp only [Group.ofWord, BitVec.extractLsb'_toNat, Nat.shiftRight_eq_div_pow]
  omega

/-- A written BUF_ADDR word is read back with its bits 31:20 cleared (R43). -/
theorem bufAddrWord_afterWrite (s : State) (v : Word) : bufAddrWord (afterWrite s v .bufAddr) = v &&& 0x000FFFFF#32 := by
  apply BitVec.eq_of_toNat_eq
  have hmask : (v &&& 0x000FFFFF#32).toNat = v.toNat % 2 ^ 20 := toNat_and_lowBits v 20 (by omega)
  rw [toNat_bufAddrWord, hmask]
  simp only [afterWrite, BitVec.extractLsb'_toNat, Nat.shiftRight_eq_div_pow]
  omega

/-- A written MAT_ADDR word is read back with its bits 31:11 cleared (R56). -/
theorem matAddrWord_afterWrite (s : State) (v : Word) : matAddrWord (afterWrite s v .matAddr) = v &&& 0x000007FF#32 := by
  apply BitVec.eq_of_toNat_eq
  have hmask : (v &&& 0x000007FF#32).toNat = v.toNat % 2 ^ 11 := toNat_and_lowBits v 11 (by omega)
  rw [toNat_matAddrWord, hmask]
  simp only [afterWrite, BitVec.extractLsb'_toNat, Nat.shiftRight_eq_div_pow]
  omega

/-- A GROUP register holds the fields of the word just written to it. -/
theorem regValue_afterWrite_group (s : State) (v : Word) (k : Fin 4) :
    regValue (afterWrite s v (.group k)) (.group k) = v &&& 0x00FFFFFF#32 := by
  simp [regValue, afterWrite, Group.word_ofWord]

end Sys2Proof.Machine
end

section
/-! PROOFS. The sums over the GROUP registers and over the block list (R52 to R54, R260). -/

namespace Sys2Proof.Machine

theorem groups_toList (s : State) : s.groups.toList = [s.groups[0], s.groups[1], s.groups[2], s.groups[3]] := by
  apply List.ext_getElem (by simp)
  intro i hi _
  have : i < 4 := by simpa using hi
  interval_cases i <;> simp

/-- A sum over the list of groups is the sum over the four GROUP registers. -/
theorem sum_map_groups (s : State) (f : Group → Nat) : (s.groups.toList.map f).sum = ∑ k : Fin 4, f s.groups[k] := by
  simp [groups_toList, Fin.sum_univ_four, Nat.add_assoc]

/-- A sum over the four GROUP registers of numbers at most 255 · 255 is at most 260100. -/
theorem sum_map_groups_le (s : State) (f : Group → Nat) (hf : ∀ g, f g ≤ 65025) :
    (s.groups.toList.map f).sum ≤ 260100 := by
  rw [sum_map_groups]
  simpa using Finset.sum_le_card_nsmul Finset.univ (fun k : Fin 4 => f s.groups[k]) 65025 (fun k _ => hf _)

theorem byte_mul_byte_le (a b : Byte) : a.toNat * b.toNat ≤ 65025 :=
  Nat.mul_le_mul (Nat.le_of_lt_succ a.isLt) (Nat.le_of_lt_succ b.isLt)

theorem totalData_le (s : State) : totalData s ≤ 260100 := sum_map_groups_le s _ fun g => byte_mul_byte_le g.count g.data

theorem totalCw_le (s : State) : totalCw s ≤ 260100 := sum_map_groups_le s _ fun g => byte_mul_byte_le g.count g.total

theorem nBlocks_le (s : State) : nBlocks s ≤ 260100 :=
  sum_map_groups_le s _ fun g => by have := g.count.isLt; omega

/-- A sum over the blocks of a layout: each group adds COUNT times the value of its blocks. -/
theorem sum_map_blocks (s : State) (f : Block → Nat) : ((blocks s).map f).sum
    = (s.groups.toList.map (fun g => g.count.toNat * f ⟨g.total.toNat, g.data.toNat⟩)).sum := by
  simp [blocks, groups_toList]

/-- The sum of d over the block list is TOTAL_DATA (R52, R260). -/
theorem sum_d_blocks (s : State) : ((blocks s).map Block.d).sum = totalData s := sum_map_blocks s Block.d

/-- The sum of t over the block list is TOTAL_CW (R53, R260). -/
theorem sum_t_blocks (s : State) : ((blocks s).map Block.t).sum = totalCw s := sum_map_blocks s Block.t

/-- The length of the block list is NBLOCKS (R54, R260). -/
theorem length_blocks (s : State) : (blocks s).length = nBlocks s := by simp [blocks, nBlocks, List.length_flatMap]

/-- No sum over the GROUP registers wraps in its register. -/
theorem toNat_ofNat_of_le {n : Nat} (h : n ≤ 260100) : (BitVec.ofNat 32 n).toNat = n := by
  rw [BitVec.toNat_ofNat, Nat.mod_eq_of_lt (by omega)]

theorem toNat_regValue_totalData (s : State) : (regValue s .totalData).toNat = totalData s :=
  toNat_ofNat_of_le (totalData_le s)

theorem toNat_regValue_totalCw (s : State) : (regValue s .totalCw).toNat = totalCw s := toNat_ofNat_of_le (totalCw_le s)

theorem toNat_regValue_nBlocks (s : State) : (regValue s .nBlocks).toNat = nBlocks s := toNat_ofNat_of_le (nBlocks_le s)

/-- Settles O35: the block list is written out over the four groups, and each register is its sum because no sum reaches
2^32. -/
theorem blockListAndTotals : Obligations.BlockListAndTotals := by
  intro s
  have hlist : blocks s = List.replicate s.groups[0].count.toNat ⟨s.groups[0].total.toNat, s.groups[0].data.toNat⟩
      ++ List.replicate s.groups[1].count.toNat ⟨s.groups[1].total.toNat, s.groups[1].data.toNat⟩
      ++ List.replicate s.groups[2].count.toNat ⟨s.groups[2].total.toNat, s.groups[2].data.toNat⟩
      ++ List.replicate s.groups[3].count.toNat ⟨s.groups[3].total.toNat, s.groups[3].data.toNat⟩ := by
    simp [blocks, groups_toList]
  rw [toNat_regValue_totalData, toNat_regValue_totalCw, toNat_regValue_nBlocks]
  exact ⟨hlist, sum_map_groups s _, sum_map_groups s _, sum_map_groups s _, sum_d_blocks s, sum_t_blocks s,
    length_blocks s, totalData_le s, totalCw_le s, nBlocks_le s⟩

end Sys2Proof.Machine
end

section
/-! PROOFS. The statements about single registers (10_state.md): what a write stores, what a read returns, and that nothing
else changes. -/

namespace Sys2Proof.Machine

/-! ### STATUS and CTRL -/

/-- A flag after a write that clears it where the written bit is 1. -/
theorem and_not_eq_ite (flag bit : Bool) : (flag && !bit) = if bit then false else flag := by
  cases bit <;> simp

/-- Settles O55: a STATUS write is performed in every state (R113), and it is R34's clearing. -/
theorem writingStatusClearsFlags : Obligations.WritingStatusClearsFlags := by
  intro s v
  have hwrite : hostWrite s 32 0x004#12 v = writeStatus v s := hostWrite_regOffset .status v (.inr rfl)
  rw [hwrite]
  simp only [writeStatus, and_not_eq_ite]

/-- Settles O14: a CTRL write is performed in every state (R113), and bit 31 chooses between the reset and the fields. -/
theorem writingCtrlResetsOrStoresItsFields : Obligations.WritingCtrlResetsOrStoresItsFields := by
  intro s v
  have hwrite : hostWrite s 32 0x008#12 v = if v.getLsbD 31 then deviceReset s else writeCtrlFields v s :=
    hostWrite_regOffset .ctrl v (.inr rfl)
  constructor
  · intro hreset
    rw [hwrite, if_pos hreset]
    rfl
  · intro hfields
    rw [hwrite, hfields]
    rfl

/-! ### Registers of plain fields -/

/-- Settles O56: on an idle device the two kinds of layout write are performed, and each is its record update. -/
theorem layoutWritesClearEcv : Obligations.LayoutWritesClearEcv := fun _ v hidle =>
  ⟨hostWrite_regOffset .dataLenBits v (.inl hidle), fun k => hostWrite_regOffset (.group k) v (.inl hidle)⟩

/-- Settles O57: each write is performed and leaves the device idle, so the read after it returns the value of the register
just written, which is the written word with its reserved bits 0. -/
theorem plainRegistersReadBack : Obligations.PlainRegistersReadBack := by
  refine ⟨?_, fun s v hidle => ?_⟩
  · intro s o mask v hidle hmem
    simp only [List.mem_cons, Prod.mk.injEq, List.not_mem_nil, or_false] at hmem
    rcases hmem with ⟨rfl, rfl⟩ | ⟨rfl, rfl⟩ | ⟨rfl, rfl⟩ | ⟨rfl, rfl⟩ | ⟨rfl, rfl⟩ | ⟨rfl, rfl⟩ | ⟨rfl, rfl⟩ | ⟨rfl, rfl⟩
      | ⟨rfl, rfl⟩ | ⟨rfl, rfl⟩
    · exact (hostRead_hostWrite .bufAddr v hidle hidle).trans (bufAddrWord_afterWrite s v)
    · exact (hostRead_hostWrite .paLen v hidle hidle).trans (setWidth_extractLsb'_eq_and v 9 (by omega))
    · exact (hostRead_hostWrite .pbLen v hidle hidle).trans (setWidth_extractLsb'_eq_and v 9 (by omega))
    · exact (hostRead_hostWrite .dataLenBits v hidle hidle).trans (setWidth_extractLsb'_eq_and v 16 (by omega))
    · exact (hostRead_hostWrite (.group 0) v hidle hidle).trans (regValue_afterWrite_group s v 0)
    · exact (hostRead_hostWrite (.group 1) v hidle hidle).trans (regValue_afterWrite_group s v 1)
    · exact (hostRead_hostWrite (.group 2) v hidle hidle).trans (regValue_afterWrite_group s v 2)
    · exact (hostRead_hostWrite (.group 3) v hidle hidle).trans (regValue_afterWrite_group s v 3)
    · exact (hostRead_hostWrite .matSize v hidle hidle).trans (setWidth_extractLsb'_eq_and v 8 (by omega))
    · exact (hostRead_hostWrite .matAddr v hidle hidle).trans (matAddrWord_afterWrite s v)
  · exact ⟨hostWrite_regOffset .bufAddr v (.inl hidle), hostWrite_regOffset .paLen v (.inl hidle),
      hostWrite_regOffset .pbLen v (.inl hidle), hostWrite_regOffset .matSize v (.inl hidle),
      hostWrite_regOffset .matAddr v (.inl hidle)⟩

/-! ### Reads -/

/-- CTRL by bit position, its mode bit written out (R35). -/
theorem ctrlWord_eq (s : State) : ctrlWord s = BitVec.ofNat 32
    (s.ieDone.toNat + 2 * s.ieErr.toNat + 4 * s.ieAerr.toNat
      + 8 * (match s.r4mode with | .exactRatio => 0 | .truncPercent => 1)) := by
  rw [eq_ofNat_of_toNat_eq (toNat_ctrlWord s)]
  cases s.r4mode <;> rfl

/-- ERR_CAUSE reads the code of R401. -/
theorem errCauseWord_eq (s : State) : errCauseWord s = match s.errCause with
    | .noError => 0#32 | .illegalCommand => 1#32 | .configError => 2#32 | .domainError => 3#32
    | .encodingOverflow => 4#32 | .capacity => 5#32 | .sequence => 6#32 := by
  rw [errCauseWord]
  cases s.errCause <;> rfl

/-- AERR_CAUSE reads the code of R410. -/
theorem aerrCauseWord_eq (s : State) : aerrCauseWord s = match s.aerrCause with
    | .noError => 0#32 | .busy => 1#32 | .bounds => 2#32 | .readOnly => 3#32 | .unmapped => 4#32 | .size => 5#32 := by
  rw [aerrCauseWord]
  cases s.aerrCause <;> rfl

/-- A read of a register that is no port, where it is performed, in the words of a statement that gives the value read. -/
theorem hostRead_eq_of_regValue {s : State} {w : Word} (r : Reg)
    (hbusy : s.busy = false ∨ allowedWhileBusy .read r = true) (hvalue : regValue s r = w)
    (hbuf : r ≠ .bufData := by nofun) (hmat : r ≠ .matData := by nofun) :
    hostRead s 32 (BitVec.ofNat 12 (regOffset r)) = (s, w) :=
  hvalue ▸ hostRead_regOffset r hbusy hbuf hmat

/-- A performed read of any register but the ports changes nothing (R112). -/
theorem hostRead_state_of_not_port {s : State} {width : Nat} {o : BitVec 12} (hcheck : accessCheck s .read width o = none)
    (hbuf : o ≠ 0x028#12) (hmat : o ≠ 0x064#12) : (hostRead s width o).1 = s := by
  refine hostRead_ind (· = s) s width o rfl (fun c hc => ?_) (fun r _ hr => afterRead_of_not_port s ?_ ?_)
  · rw [hcheck] at hc
    contradiction
  · rintro rfl
    exact hbuf (regOffset_of_regAt hr).symm
  · rintro rfl
    exact hmat (regOffset_of_regAt hr).symm

/-- Settles O58: each register but the ports reads its value and changes nothing, and each value is the word of the
register's fields by bit position. -/
theorem readsHaveNoSideEffect : Obligations.ReadsHaveNoSideEffect := by
  refine ⟨fun s => ?_, fun s hidle => ?_, fun s width o => hostRead_state_of_not_port⟩
  · exact ⟨hostRead_regOffset .id (.inr rfl),
      hostRead_eq_of_regValue .status (.inr rfl) (eq_ofNat_of_toNat_eq (toNat_statusWord s)),
      hostRead_eq_of_regValue .ctrl (.inr rfl) (ctrlWord_eq s), hostRead_regOffset .cmd (.inr rfl)⟩
  · rw [← sum_map_groups s (fun g => g.count.toNat * g.data.toNat),
      ← sum_map_groups s (fun g => g.count.toNat * g.total.toNat), ← sum_map_groups s (fun g => g.count.toNat)]
    have read (r : Reg) (w : Word) (hvalue : regValue s r = w) (hbuf : r ≠ .bufData := by nofun)
        (hmat : r ≠ .matData := by nofun) : hostRead s 32 (BitVec.ofNat 12 (regOffset r)) = (s, w) :=
      hostRead_eq_of_regValue r (.inl hidle) hvalue hbuf hmat
    exact ⟨read .errCause _ (errCauseWord_eq s), read .errInfo _ rfl, read .aerrCause _ (aerrCauseWord_eq s),
      read .aerrAddr _ (eq_ofNat_of_toNat_eq (toNat_aerrAddrWord s)), read .result _ rfl,
      read .bufAddr _ (eq_ofNat_of_toNat_eq (toNat_bufAddrWord s)),
      read .paLen _ (BitVec.ofNat_toNat 32 _).symm, read .pbLen _ (BitVec.ofNat_toNat 32 _).symm,
      read .prLen _ (BitVec.ofNat_toNat 32 _).symm,
      read .dataLenBits _ (BitVec.ofNat_toNat 32 _).symm, read .cwLen _ (BitVec.ofNat_toNat 32 _).symm,
      fun k => read (.group k) _ (eq_ofNat_of_toNat_eq (Group.toNat_word _)),
      read .totalData _ rfl, read .totalCw _ rfl, read .nBlocks _ rfl,
      read .matSize _ (BitVec.ofNat_toNat 32 _).symm, read .matAddr _ (eq_ofNat_of_toNat_eq (toNat_matAddrWord s)),
      read .penValid _ (BitVec.ofNat_toNat 32 _).symm, read .sel _ (eq_ofNat_of_toNat_eq (toNat_selWord s)),
      read (.penR 0) _ rfl, read (.penR 1) _ rfl, read (.penR 2) _ rfl, read (.penR 3) _ rfl,
      fun k => read (.pen k) _ rfl⟩

end Sys2Proof.Machine
end

section
/-! PROOFS. The invariants of the flags (R33, R331) and of the selection (R59, R310, R311) that every step keeps. -/

namespace Sys2Proof.Machine

/-! ### What an access can write -/

/-- A performed read moves at most the two pointers (R104, R108, R112). -/
theorem afterRead_frame (s : State) (r : Reg) : ∃ u : State,
    afterRead s r = { s with bufIndex := u.bufIndex, matRow := u.matRow, matWord := u.matWord } := by
  refine ⟨afterRead s r, ?_⟩
  cases r with
  | matData =>
    simp only [afterRead, advanceMat]
    split <;> rfl
  | _ => rfl

/-- `s` with the fields a host write of data takes from `u`: the pointers, the lengths the host writes, the layout with
STATUS.ECV, and the memories (R43 to R57, R101). -/
def withHostData (s u : State) : State :=
  { s with
    bufIndex := u.bufIndex, bufSel := u.bufSel, paLen := u.paLen, pbLen := u.pbLen, dataLenBits := u.dataLenBits
    ecv := u.ecv, groups := u.groups, matSize := u.matSize, matRow := u.matRow, matWord := u.matWord
    data := u.data, pa := u.pa, pb := u.pb, pr := u.pr, cw := u.cw, ec := u.ec, mat := u.mat }

/-- What a performed write can do: clear flags (STATUS), reset or store the enables (CTRL), issue (CMD), or write data and
nothing else (R34 to R57). -/
theorem afterWrite_cases (s : State) (v : Word) (r : Reg) :
    afterWrite s v r = writeStatus v s ∨ afterWrite s v r = deviceReset s ∨ afterWrite s v r = writeCtrlFields v s
    ∨ afterWrite s v r = issue v s ∨ afterWrite s v r = withHostData s (afterWrite s v r) := by
  cases r with
  | status => exact .inl rfl
  | ctrl =>
    by_cases hreset : v.getLsbD 31 = true
    · exact .inr (.inl (if_pos hreset))
    · exact .inr (.inr (.inl (if_neg hreset)))
  | cmd => exact .inr (.inr (.inr (.inl rfl)))
  | bufData =>
    refine .inr (.inr (.inr (.inr ?_)))
    simp only [afterWrite, writeByte]
    cases selectedBuf s <;> rfl
  | matData =>
    refine .inr (.inr (.inr (.inr ?_)))
    simp only [afterWrite, advanceMat]
    split <;> rfl
  | _ => exact .inr (.inr (.inr (.inr rfl)))

/-! ### DONE and ERR -/

/-- A command in flight starts with DONE and ERR 0, and its completion sets exactly one of them (R332, R402). -/
theorem exec_keeps_flagsOk {i : Instr} {s t : State} (hs : flagsOk s) (hbusy : s.busy = true)
    (h : exec i s = .next t) : flagsOk t := by
  obtain ⟨hdone, herr⟩ := hs.2 hbusy
  rcases exec_cases h with ⟨e, _, rfl⟩ | ⟨u, hkeeps, rfl⟩
  · simp [flagsOk, hdone]
  · simp [flagsOk, hkeeps.err, herr]

/-- STATUS writes only clear flags, a reset and an issue clear them both, and no other write touches them. -/
theorem afterWrite_keeps_flagsOk {s : State} (v : Word) (r : Reg) (hs : flagsOk s) : flagsOk (afterWrite s v r) := by
  rcases afterWrite_cases s v r with h | h | h | h | h <;> rw [h]
  · simp only [flagsOk, writeStatus, Bool.and_eq_true] at hs ⊢
    exact ⟨fun ⟨hdone, herr⟩ => hs.1 ⟨hdone.1, herr.1⟩, fun hbusy => by simp [hs.2 hbusy]⟩
  · simp [flagsOk]
  · exact hs
  · simp [flagsOk]
  · exact hs

/-- Settles O17, over the moves of a step. -/
theorem stepKeepsFlagsConsistent : Obligations.StepKeepsFlagsConsistent := by
  intro s t hs hstep
  refine step_ind flagsOk hstep hs (hturn := fun _ _ h => h) (hhost := fun _ _ h => h) (hrep := fun _ _ h => h)
    (hacc := fun _ _ _ h => h) (hreset := ?hreset) (hread := ?hread) (hwrite := ?hwrite) (hill := ?hill) (hexec := ?hexec)
  case hreset => simp [flagsOk]
  case hread =>
    intro s _ _ r h _ _
    obtain ⟨u, hu⟩ := afterRead_frame s r
    rw [hu]
    exact h
  case hwrite => exact fun s _ _ v r h _ _ => afterWrite_keeps_flagsOk v r h
  case hill =>
    intro s h hbusy
    simp [flagsOk, h.2 hbusy]
  case hexec => exact fun i s t h hbusy => exec_keeps_flagsOk h hbusy

/-! ### SEL and PEN_VALID -/

/-- What `selectionOk` reads of a state. -/
def selectionView (s : State) : BitVec 8 × BitVec 3 × Bool := (s.penValid, s.selMask, s.selValid)

/-- The invariant depends on the three registers alone. -/
theorem selectionOk_of_selectionView_eq {s u : State} (h : selectionView u = selectionView s) (hs : selectionOk s) :
    selectionOk u := by
  simp only [selectionView, Prod.mk.injEq] at h
  obtain ⟨hpen, hmask, hvalid⟩ := h
  simpa only [selectionOk, hpen, hmask, hvalid] using hs

@[simp] theorem selectionView_writeBytes (s : State) (b : Buf) (base : Nat) (vs : List Byte) :
    selectionView (writeBytes s b base vs) = selectionView s := by
  simp [selectionView, writeBytes]

@[simp] theorem selectionView_writePoly (s : State) (p : PolyBuf) (r : Poly) :
    selectionView (writePoly s p r) = selectionView s := by
  simp [selectionView, writePoly, writeBytes]

@[simp] theorem selectionView_writeEcFrom (b : Nat) (s : State) (es : List (List Byte)) :
    selectionView (writeEcFrom b s es) = selectionView s := by
  induction es generalizing b s with
  | nil => rfl
  | cons e es ih => rw [writeEcFrom, ih, selectionView_writeBytes]

@[simp] theorem selectionView_finalizeBody (s : State) : selectionView (finalizeBody s) = selectionView s :=
  selectionView_writeBytes s .data 0 (finalBytes (totalData s) (dataStream s))

@[simp] theorem selectionView_interleaveBody (s : State) : selectionView (interleaveBody s) = selectionView s :=
  selectionView_writeBytes s .cw 0 (codewordStream s)

theorem selectionView_blocksBody {s u : State} (h : blocksBody s = .ok u) : selectionView u = selectionView s := by
  unfold blocksBody at h
  split at h
  · cases h
    exact selectionView_writeEcFrom 0 s _
  · contradiction

/-- A completion keeps the invariant when the effect of its passed checks does: an error report and DONE do not touch it. -/
theorem complete_keeps_selectionOk {checks : List (Bool × CommandError)} {effect : Except CommandError State} {s t : State}
    (hs : selectionOk s) (hok : ∀ u, firstError checks = none → effect = .ok u → selectionOk u)
    (h : complete checks effect s = .next t) : selectionOk t := by
  rcases complete_cases h with ⟨e, _, rfl⟩ | ⟨_, e, _, rfl⟩ | ⟨hnone, u, hu, rfl⟩
  · exact hs
  · exact hs
  · exact hok u hnone hu

/-- The same for an effect that leaves the three registers alone, as every effect but those of the mask commands does. -/
theorem complete_keeps_selectionOk_of_view {checks : List (Bool × CommandError)} {effect : Except CommandError State}
    {s t : State} (hs : selectionOk s) (hok : ∀ u, effect = .ok u → selectionView u = selectionView s)
    (h : complete checks effect s = .next t) : selectionOk t :=
  complete_keeps_selectionOk hs (fun u _ hu => selectionOk_of_selectionView_eq (hok u hu) hs) h

/-- Scoring one more slot leaves PEN_VALID at 0xFF once it is there (R300). -/
theorem selectionOk_recordPenalty {s : State} (k : Nat) (p : Nat × Nat × Nat × Nat) (hs : selectionOk s) :
    selectionOk (recordPenalty k p s) := by
  refine ⟨fun hvalid => ?_, hs.2⟩
  have hfull : s.penValid = BitVec.allOnes 8 := hs.1 hvalid
  simp only [recordPenalty, hfull]
  exact BitVec.allOnes_or

theorem exec_keeps_selectionOk {i : Instr} {s t : State} (hs : selectionOk s) (h : exec i s = .next t) :
    selectionOk t := by
  cases i <;> simp only [exec, execNop, execGfExp, execGfLog, execGfMul, execPolyNew, execPolyCopy, execPolyMul, execPolyMod,
    execPolyGen, execRsFinalize, execRsBlocks, execRsInterleave, execRsEncode, execMaskEval, execMaskSelect,
    execMaskClear] at h
  case nop | gfExp => exact complete_keeps_selectionOk_of_view hs (by rintro u ⟨⟩; rfl) h
  case gfLog | gfMul =>
    refine complete_keeps_selectionOk_of_view hs (fun u hu => ?_) h
    split at hu <;> cases hu
    rfl
  case polyNew | polyCopy | rsFinalize | rsInterleave =>
    exact complete_keeps_selectionOk_of_view hs (by rintro u ⟨⟩; simp) h
  case polyMul | polyMod | polyGen =>
    refine complete_keeps_selectionOk_of_view hs (fun u hu => ?_) h
    split at hu <;> cases hu
    simp
  case rsBlocks => exact complete_keeps_selectionOk_of_view hs (fun u hu => selectionView_blocksBody hu) h
  case rsEncode =>
    refine complete_keeps_selectionOk_of_view hs (fun u hu => ?_) h
    split at hu <;> cases hu
    rw [selectionView_interleaveBody, selectionView_blocksBody ‹_›, selectionView_finalizeBody]
  case maskEval k => exact complete_keeps_selectionOk hs (by rintro u - ⟨⟩; exact selectionOk_recordPenalty k _ hs) h
  case maskSelect =>
    refine complete_keeps_selectionOk hs ?_ h
    rintro u hchecks ⟨⟩
    have hfull : s.penValid = 0xFF#8 := by simpa [firstError_eq_none] using hchecks
    exact ⟨fun _ => hfull, nofun⟩
  case maskClear => exact complete_keeps_selectionOk hs (by rintro u - ⟨⟩; exact ⟨nofun, fun _ => rfl⟩) h

/-- A performed write resets or leaves PEN_VALID and SEL alone: both are read-only to the host. -/
theorem afterWrite_keeps_selectionOk {s : State} (v : Word) (r : Reg) (hs : selectionOk s) :
    selectionOk (afterWrite s v r) := by
  rcases afterWrite_cases s v r with h | h | h | h | h <;> rw [h]
  · exact hs
  · simp [selectionOk]
  · exact hs
  · exact hs
  · exact hs

/-- Settles O20, over the moves of a step. -/
theorem stepKeepsSelectionOverScoredSlots : Obligations.StepKeepsSelectionOverScoredSlots := by
  intro s t hs hstep
  refine step_ind selectionOk hstep hs (hturn := fun _ _ h => h) (hhost := fun _ _ h => h) (hrep := fun _ _ h => h)
    (hacc := fun _ _ _ h => h) (hreset := ?hreset) (hread := ?hread) (hwrite := ?hwrite) (hill := fun _ h _ => h)
    (hexec := ?hexec)
  case hreset => simp [selectionOk]
  case hread =>
    intro s _ _ r h _ _
    obtain ⟨u, hu⟩ := afterRead_frame s r
    rw [hu]
    exact h
  case hwrite => exact fun s _ _ v r h _ _ => afterWrite_keeps_selectionOk v r h
  case hexec => exact fun i s t h _ => exec_keeps_selectionOk h

end Sys2Proof.Machine
end

section
/-! PROOFS. How long the results are that the commands write (41_poly.md R231 to R234, 42_rs.md R262 to R267), and that a
command's checks keep them within the buffers they are written to (R101). -/

namespace Sys2Proof.Machine

/-! ### Polynomials -/

theorem length_normalize_le (c : Poly) (shift : Nat) : (normalize c shift).length ≤ c.length + shift := by
  have := (List.dropWhile_sublist (fun x => x == 0#8) (l := c)).length_le
  simp [normalize, this]

/-- A leading zero is stripped, so a normalised sequence with one is shorter. -/
theorem length_normalize_zero_cons_lt (c : Poly) : (normalize (0#8 :: c) 0).length < (0#8 :: c).length :=
  Nat.lt_succ_of_le (length_normalize_le c 0)

@[simp] theorem length_xorFront (r row : Poly) : (xorFront r row).length = r.length := by
  induction r generalizing row with
  | nil => cases row <;> rfl
  | cons x xs ih => cases row <;> simp [xorFront, ih]

/-- Before its normalisation a product has one coefficient less than its factors together (R231). -/
theorem length_polyMulLoop {a b r : Poly} (h : polyMulLoop a b = some r) : r.length = a.length + (b.length - 1) := by
  induction a generalizing r with
  | nil =>
    cases h
    simp
  | cons x xs ih =>
    rw [polyMulLoop] at h
    split at h
    · contradiction
    · split at h
      · cases h
        simp [ih ‹_›]
        omega
      · contradiction

theorem length_polyMul_le {a b r : Poly} (h : polyMul a b = some r) : r.length ≤ a.length + (b.length - 1) := by
  rw [polyMul] at h
  split at h
  · cases h
    simp
  · obtain ⟨p, hp, rfl⟩ := Option.map_eq_some_iff.1 h
    rw [← length_polyMulLoop hp]
    exact length_normalize_le p 0

/-- A generator polynomial has degree at most n (R234). -/
theorem length_polyGen_le {n : Nat} {g : Poly} (h : polyGen n = some g) : g.length ≤ n + 1 := by
  induction n generalizing g with
  | zero =>
    cases h
    simp
  | succ n ih =>
    rw [polyGen] at h
    split at h
    · exact (length_polyMul_le h).trans (Nat.add_le_add_right (ih ‹_›) 1)
    · contradiction

/-- EXP takes the logarithm of a non-zero byte back to the byte (R202, R205). -/
theorem gfExp_romEntry_logRom : ∀ x : Byte, x ≠ 0#8 → gfExp (romEntry logRom x.toNat : Nat) = x := by decide

theorem gfExp_of_gfLog {x : Byte} {l : Nat} (h : gfLog x = some l) : gfExp (l : Int) = x := by
  rw [gfLog] at h
  split at h
  · contradiction
  · cases h
    exact gfExp_romEntry_logRom x ‹_›

/-- One pass of poly_mod cancels the leading coefficient, so it shortens the dividend (R233(b)). -/
theorem length_polyMod_pass_lt {x y : Byte} {xs ys row : Poly} {la lb : Nat} (hx : gfLog x = some la)
    (hy : gfLog y = some lb) (hrow : scaleExp ((la : Int) - (lb : Int)) (y :: ys) = some row) :
    (normalize (xorFront (x :: xs) row) 0).length < (x :: xs).length := by
  rw [scaleExp, hy] at hrow
  split at hrow
  · next l row' hl _ =>
    cases hl
    cases hrow
    have hcancel : x ^^^ gfExp ((lb : Int) + ((la : Int) - (lb : Int))) = 0#8 := by
      rw [add_sub_cancel, gfExp_of_gfLog hx, BitVec.xor_self]
    rw [xorFront, hcancel]
    simpa using length_normalize_zero_cons_lt (xorFront xs row')
  · contradiction

theorem length_polyModLoop {fuel : Nat} {a b r : Poly} (hb : b ≠ []) (hfuel : a.length < fuel)
    (h : polyModLoop fuel a b = some r) : r.length < b.length ∧ r.length ≤ a.length := by
  induction fuel generalizing a with
  | zero => omega
  | succ fuel ih =>
    rw [polyModLoop] at h
    split at h
    · cases h
      exact ⟨‹_›, le_rfl⟩
    · next hlong =>
      obtain ⟨y, ys, rfl⟩ := List.exists_cons_of_ne_nil hb
      cases a with
      | nil => simp at hlong
      | cons x xs =>
        split at h
        · split at h
          · have hlt := length_polyMod_pass_lt (xs := xs) ‹gfLog x = _› ‹gfLog y = _› ‹_›
            have hrest := ih (hlt.trans_le (Nat.le_of_lt_succ hfuel)) h
            exact ⟨hrest.1, hrest.2.trans hlt.le⟩
          · contradiction
        · contradiction

/-- A remainder is shorter than the divisor and no longer than the dividend (R232, R233). -/
theorem length_polyMod {a b r : Poly} (h : polyMod a b = some r) : r.length < b.length ∧ r.length ≤ a.length := by
  rw [polyMod] at h
  split at h
  · contradiction
  · next hb => exact length_polyModLoop (by simpa using hb) (Nat.lt_succ_self _) h

/-! ### The encoder -/

/-- The error-correction codewords of a block are as many as asked for (R262). -/
theorem length_ecBytes {data e : List Byte} {n : Nat} (h : ecBytes data n = some e) : e.length = n := by
  rw [ecBytes] at h
  split at h
  · contradiction
  · split at h
    · cases h
      have := length_polyGen_le ‹_›
      have := (length_polyMod ‹_›).1
      simp
      omega
    · contradiction

theorem length_toByteBoundary (bits : List Bool) : (toByteBoundary bits).length = 8 * ((bits.length + 7) / 8) := by
  simp [toByteBoundary]
  omega

@[simp] theorem length_byteBits (v : Byte) : (byteBits v).length = 8 := by simp [byteBits]

theorem length_withPads (capBits : Nat) (bits : List Bool) :
    (withPads capBits bits).length = bits.length + 8 * ((capBits - bits.length) / 8) := by
  simp [withPads, padCodewords, List.length_flatMap, Function.comp_def, Nat.mul_comm]

theorem length_packBytes (bits : List Bool) : (packBytes bits).length = bits.length / 8 := by
  induction bits using packBytes.induct with
  | case1 b7 b6 b5 b4 b3 b2 b1 b0 rest ih =>
    simp [packBytes, ih]
    omega
  | case2 bits h =>
    match bits, h with
    | [], _ | [_], _ | [_, _], _ | [_, _, _], _ | [_, _, _, _], _ | [_, _, _, _, _], _ | [_, _, _, _, _, _], _
    | [_, _, _, _, _, _, _], _ => simp [packBytes]
    | b7 :: b6 :: b5 :: b4 :: b3 :: b2 :: b1 :: b0 :: rest, h => exact absurd rfl (h b7 b6 b5 b4 b3 b2 b1 b0 rest)

/-- Terminator, byte fill and pads take a stream that fits to exactly T bytes (R264). -/
theorem length_finalBytes {t : Nat} {bits : List Bool} (h : bits.length ≤ 8 * t) : (finalBytes t bits).length = t := by
  rw [finalBytes, length_packBytes, length_withPads, length_toByteBoundary, withTerminator]
  split
  · rw [List.length_append]
    simp only [List.length_cons, List.length_nil]
    omega
  · omega

@[simp] theorem length_dataStream (s : State) : (dataStream s).length = streamBits s := by simp [dataStream]

/-! ### Interleaving -/

theorem length_interleaveRound_cons (q : List Byte) (qs : List (List Byte)) (i : Nat) :
    (interleaveRound (q :: qs) i).length = (if i < q.length then 1 else 0) + (interleaveRound qs i).length := by
  by_cases h : i < q.length
  · simp [interleaveRound, h, Nat.add_comm]
  · simp [interleaveRound, h]

/-- Over m rounds a sequence of l elements gives its first min m l. -/
theorem sum_range_ite_lt (m l : Nat) : ((List.range m).map (fun i => if i < l then 1 else 0)).sum = min m l := by
  induction m with
  | zero => simp
  | succ m ih =>
    rw [List.range_succ, List.map_append, List.sum_append, ih]
    simp only [List.map_cons, List.map_nil, List.sum_cons, List.sum_nil]
    split <;> omega

/-- Over m rounds every sequence gives its first m elements. -/
theorem length_rounds (seqs : List (List Byte)) (m : Nat) :
    ((List.range m).flatMap (interleaveRound seqs)).length = (seqs.map (fun q => min m q.length)).sum := by
  induction seqs with
  | nil => simp [interleaveRound]
  | cons q qs ih =>
    rw [List.length_flatMap] at ih ⊢
    simp only [length_interleaveRound_cons, List.sum_map_add, sum_range_ite_lt, ih, List.map_cons, List.sum_cons]

/-- An interleave has no more elements than its sequences together (R263). -/
theorem length_interleaveRounds_le (seqs : List (List Byte)) :
    (interleaveRounds seqs).length ≤ (seqs.map List.length).sum := by
  rw [interleaveRounds, length_rounds]
  exact List.sum_le_sum fun q _ => Nat.min_le_right _ _

@[simp] theorem map_length_dataSeqsFrom (s : State) (off : Nat) (bs : List Block) :
    (dataSeqsFrom s off bs).map List.length = bs.map Block.d := by
  induction bs generalizing off with
  | nil => rfl
  | cons b bs ih => simp [dataSeqsFrom, ih]

/-- Each block has its d data bytes (R265). -/
theorem map_length_dataSeqs (s : State) : (dataSeqs s).map List.length = (blocks s).map Block.d :=
  map_length_dataSeqsFrom s 0 (blocks s)

@[simp] theorem map_length_ecSeqsFrom (s : State) (b : Nat) (bs : List Block) :
    (ecSeqsFrom s b bs).map List.length = bs.map Block.n := by
  induction bs generalizing b with
  | nil => rfl
  | cons k bs ih => simp [ecSeqsFrom, ih]

/-- Each block has its n error-correction codewords (R267). -/
theorem map_length_ecSeqs (s : State) : (ecSeqs s).map List.length = (blocks s).map Block.n :=
  map_length_ecSeqsFrom s 0 (blocks s)

theorem map_length_ecSeqsOf {bs : List Block} {ds es : List (List Byte)} (h : ecSeqsOf bs ds = some es)
    (hlen : bs.length = ds.length) : es.map List.length = bs.map Block.n := by
  induction bs generalizing ds es with
  | nil =>
    cases h
    rfl
  | cons b bs ih =>
    cases ds with
    | nil => contradiction
    | cons d ds =>
      rw [ecSeqsOf] at h
      split at h
      · cases h
        simp [length_ecBytes ‹_›, ih ‹_› (by simpa using hlen)]
      · contradiction

/-! ### A layout that passes its check -/

/-- What layout_check leaves of a layout (R261): no block has more data than codewords, and blocks and data fit. -/
structure LayoutFits (s : State) : Prop where
  data_le : ∀ b ∈ blocks s, b.d ≤ b.t
  blocks_le : nBlocks s ≤ Config.maxBlocks
  totalData_le : totalData s ≤ Config.dataBufBytes

theorem layoutFits_of_layoutChecks {s : State} (h : firstError (layoutChecks s) = none) : LayoutFits s := by
  simp only [firstError_eq_none, layoutChecks, List.forall_mem_cons, groupBad, Bool.and_eq_false_iff,
    decide_eq_false_iff_not, not_lt] at h
  obtain ⟨-, h0, h1, h2, h3, hblocks, hdata, -⟩ := h
  refine ⟨fun b hb => ?_, hblocks, hdata⟩
  simp only [blocks, groups_toList, List.mem_flatMap, List.mem_cons, List.not_mem_nil, or_false, List.mem_replicate] at hb
  obtain ⟨g, rfl | rfl | rfl | rfl, hcount, rfl⟩ := hb
  · exact h0.resolve_left (by omega)
  · exact h1.resolve_left (by omega)
  · exact h2.resolve_left (by omega)
  · exact h3.resolve_left (by omega)

/-- The layout is the GROUP registers alone. -/
theorem LayoutFits.of_groups_eq {s u : State} (hs : LayoutFits s) (h : u.groups = s.groups) : LayoutFits u := by
  refine ⟨?_, ?_, ?_⟩
  · simpa only [blocks, h] using hs.data_le
  · simpa only [nBlocks, h] using hs.blocks_le
  · simpa only [totalData, h] using hs.totalData_le

/-- The final stream has no more codewords than the layout (R267). -/
theorem length_codewordStream_le {s : State} (hs : LayoutFits s) : (codewordStream s).length ≤ totalCw s := by
  have hd := length_interleaveRounds_le (dataSeqs s)
  have he := length_interleaveRounds_le (ecSeqs s)
  rw [map_length_dataSeqs] at hd
  rw [map_length_ecSeqs] at he
  have hsum : ((blocks s).map Block.d).sum + ((blocks s).map Block.n).sum = totalCw s := by
    rw [← List.sum_map_add, ← sum_t_blocks]
    exact congrArg List.sum (List.map_congr_left fun b hb => Nat.add_sub_of_le (hs.data_le b hb))
  rw [codewordStream, interleave, List.length_append]
  exact (Nat.add_le_add hd he).trans hsum.le

end Sys2Proof.Machine
end

section
/-! PROOFS. The invariant of the memories (R101, R106, R47, R49): canonical form, nothing listed at or above a capacity, and
the lengths of PR and CW within their buffers. One rule per kind of write, then the commands and the moves of a step. -/

namespace Sys2Proof.Machine

/-! ### Writes that stay within a buffer -/

/-- The invariant of the memories and of the lengths the device writes. -/
abbrev storageOk (s : State) : Prop := memoryOk s ∧ lengthsOk s

/-- The six byte buffers in one clause. -/
theorem memoryOk_iff (s : State) : memoryOk s
    ↔ (∀ b, bufOk s b) ∧ Memory.wf s.mat = true ∧ Memory.below (Config.sideMax * Config.matWords) s.mat = true := by
  constructor
  · rintro ⟨hdata, hpa, hpb, hpr, hcw, hec, hmat⟩
    refine ⟨fun b => ?_, hmat⟩
    cases b <;> assumption
  · rintro ⟨hbuf, hmat⟩
    exact ⟨hbuf _, hbuf _, hbuf _, hbuf _, hbuf _, hbuf _, hmat⟩

theorem storageOk_setBufMem {s : State} {b : Buf} {m : Memory Byte} (hs : storageOk s) (hwf : Memory.wf m = true)
    (hbelow : Memory.below b.cap m = true) : storageOk (setBufMem s b m) := by
  rw [storageOk, memoryOk_iff] at hs ⊢
  obtain ⟨⟨hbuf, hmat⟩, hlen⟩ := hs
  refine ⟨⟨fun b' => ?_, by simpa using hmat⟩, by simpa [lengthsOk] using hlen⟩
  by_cases hb : b' = b
  · subst hb
    simpa [bufOk] using ⟨hwf, hbelow⟩
  · simpa [bufOk, hb] using hbuf b'

theorem bufOk_of_storageOk {s : State} (hs : storageOk s) (b : Buf) : bufOk s b := ((memoryOk_iff s).1 hs.1).1 b

theorem storageOk_writeByte {s : State} {b : Buf} {i : Nat} (hs : storageOk s) (hi : i < b.cap) (v : Byte) :
    storageOk (writeByte s b i v) := by
  obtain ⟨hwf, hbelow⟩ := bufOk_of_storageOk hs b
  exact storageOk_setBufMem hs (Memory.wf_write _ _ _ hwf) (Memory.below_write _ _ _ _ hi hbelow)

theorem storageOk_writeBytes {s : State} {b : Buf} {base : Nat} {vs : List Byte} (hs : storageOk s)
    (hfit : base + vs.length ≤ b.cap) : storageOk (writeBytes s b base vs) := by
  obtain ⟨hwf, hbelow⟩ := bufOk_of_storageOk hs b
  exact storageOk_setBufMem hs (Memory.wf_writeList _ _ _ hwf) (Memory.below_writeList _ _ _ _ hfit hbelow)

theorem storageOk_writeMatWord {s : State} {row word : Nat} (hs : storageOk s) (hrow : row < Config.sideMax)
    (hword : word < Config.matWords) (v : Word) : storageOk (writeMatWord s row word v) := by
  have hindex : matIndex row word < Config.sideMax * Config.matWords := by
    simp only [matIndex, Config.sideMax, Config.matWords] at hrow hword ⊢
    omega
  rw [storageOk, memoryOk_iff] at hs ⊢
  obtain ⟨⟨hbuf, hwf, hbelow⟩, hlen⟩ := hs
  exact ⟨⟨hbuf, Memory.wf_write _ _ _ hwf, Memory.below_write _ _ _ _ hindex hbelow⟩, hlen⟩

/-- The three polynomial buffers have one capacity (R101). -/
theorem cap_polyMem (p : PolyBuf) : (polyMem p).cap = Config.polyMax := by cases p <;> rfl

theorem storageOk_setPolyLen {s : State} (p : PolyBuf) {n : Nat} (hs : storageOk s) (hn : n ≤ Config.polyMax) :
    storageOk (setPolyLen s p n) := by
  cases p with
  | pa | pb => exact hs
  | pr => exact ⟨hs.1, (BitVec.toNat_ofNat n 9 ▸ Nat.mod_le n _).trans hn, hs.2.2⟩

/-- write_poly stays within its buffer for at most 256 coefficients (R237). -/
theorem storageOk_writePoly {s : State} (p : PolyBuf) {r : Poly} (hs : storageOk s) (hr : r.length ≤ Config.polyMax) :
    storageOk (writePoly s p r) :=
  storageOk_setPolyLen p (storageOk_writeBytes hs (by rwa [Nat.zero_add, cap_polyMem])) hr

/-- The EC store has room for 256 codewords in each of 128 blocks (R109). -/
theorem storageOk_writeEcFrom {s : State} {b : Nat} {es : List (List Byte)} (hs : storageOk s)
    (hblocks : b + es.length ≤ Config.maxBlocks) (hlen : ∀ e ∈ es, e.length ≤ Config.ecStride) :
    storageOk (writeEcFrom b s es) := by
  induction es generalizing b s with
  | nil => exact hs
  | cons e es ih =>
    obtain ⟨he, hes⟩ := List.forall_mem_cons.1 hlen
    rw [List.length_cons] at hblocks
    refine ih (storageOk_writeBytes hs ?_) (by omega) hes
    simp only [Buf.cap, Config.maxBlocks, Config.ecStride] at hblocks he ⊢
    omega

/-! ### The commands -/

/-- What a completion can do: a property that an error report keeps, and that the effect of the passed checks leads to, holds
after it. -/
theorem complete_ind (P : State → Prop) {checks : List (Bool × CommandError)} {effect : Except CommandError State}
    {s t : State} (h : complete checks effect s = .next t) (herror : ∀ e, P (commandError e s))
    (hok : ∀ u, firstError checks = none → effect = .ok u → P (completeOk u)) : P t := by
  rcases complete_cases h with ⟨e, _, rfl⟩ | ⟨_, e, _, rfl⟩ | ⟨hnone, u, hu, rfl⟩
  · exact herror e
  · exact herror e
  · exact hok u hnone hu

@[simp] theorem length_readPoly (s : State) (p : PolyBuf) : (readPoly s p).length = polyLen s p := by simp [readPoly]

/-- What read_poly reads fits a buffer: PA and PB by its check, PR by the invariant (R236, R47). -/
theorem polyLen_le_of_readPolyChecks {s : State} {p : PolyBuf} (hs : storageOk s)
    (h : firstError (readPolyChecks s p) = none) : polyLen s p ≤ Config.polyMax := by
  cases p with
  | pa | pb => simpa [readPolyChecks, firstError_eq_none, polyLen] using h
  | pr => exact hs.2.1

theorem length_le_of_polyMulChecks {s : State} {r : Poly} (hchecks : firstError (polyMulChecks s) = none)
    (hr : polyMul (readPoly s .pa) (readPoly s .pb) = some r) : r.length ≤ Config.polyMax := by
  simp only [polyMulChecks, readPolyChecks, List.cons_append, List.nil_append, firstError_eq_none, List.forall_mem_cons,
    decide_eq_false_iff_not, not_lt, Bool.and_eq_false_iff] at hchecks
  obtain ⟨hpa, hpb, hproduct, -⟩ := hchecks
  have hle := length_polyMul_le hr
  simp only [length_readPoly, polyLen] at hle hproduct
  omega

theorem n_le_of_mem_blocks {s : State} {b : Block} (hb : b ∈ blocks s) : b.n ≤ Config.ecStride := by
  simp only [blocks, List.mem_flatMap, List.mem_replicate] at hb
  obtain ⟨g, -, -, rfl⟩ := hb
  have := g.total.isLt
  simp only [Block.n, Config.ecStride]
  omega

theorem storageOk_finalizeBody {s : State} (hs : storageOk s) (hlayout : LayoutFits s) (hfit : streamOverflows s = false) :
    storageOk (finalizeBody s) := by
  have hbits : (dataStream s).length ≤ 8 * totalData s := by simpa [streamOverflows] using hfit
  have hwrite : storageOk (writeBytes s .data 0 (finalBytes (totalData s) (dataStream s))) := by
    refine storageOk_writeBytes hs ?_
    rw [Nat.zero_add, length_finalBytes hbits]
    exact hlayout.totalData_le
  exact hwrite

theorem blocksBody_cases {s u : State} (h : blocksBody s = .ok u) :
    ∃ es, ecSeqsOf (blocks s) (dataSeqs s) = some es ∧ u = { writeEcFrom 0 s es with ecv := true } := by
  unfold blocksBody at h
  split at h
  · cases h
    exact ⟨_, ‹_›, rfl⟩
  · contradiction

theorem storageOk_blocksBody {s u : State} (hs : storageOk s) (hlayout : LayoutFits s) (h : blocksBody s = .ok u) :
    storageOk u := by
  obtain ⟨es, hes, rfl⟩ := blocksBody_cases h
  have hcount : (blocks s).length = (dataSeqs s).length := by
    simpa only [List.length_map] using congrArg List.length (map_length_dataSeqs s).symm
  have hlen := map_length_ecSeqsOf hes hcount
  have hblocks : es.length = nBlocks s := by simpa [length_blocks] using congrArg List.length hlen
  have hwrite : storageOk (writeEcFrom 0 s es) := by
    refine storageOk_writeEcFrom hs (by simpa [hblocks] using hlayout.blocks_le) fun e he => ?_
    obtain ⟨b, hb, hn⟩ := List.mem_map.1 (hlen ▸ List.mem_map_of_mem (f := List.length) he)
    exact hn ▸ n_le_of_mem_blocks hb
  exact hwrite

theorem storageOk_interleaveBody {s : State} (hs : storageOk s) (hlayout : LayoutFits s) (hfit : streamOverCw s = false) :
    storageOk (interleaveBody s) := by
  have hlen : (codewordStream s).length ≤ Config.cwBufBytes :=
    (length_codewordStream_le hlayout).trans (by simpa [streamOverCw] using hfit)
  have hwrite : storageOk (writeBytes s .cw 0 (codewordStream s)) := storageOk_writeBytes hs (by rwa [Nat.zero_add])
  exact ⟨hwrite.1, hwrite.2.1, (BitVec.toNat_ofNat _ 16 ▸ Nat.mod_le _ _).trans hlen⟩

@[simp] theorem finalizeBody_groups (s : State) : (finalizeBody s).groups = s.groups := by simp [finalizeBody, writeBytes]

@[simp] theorem writeEcFrom_groups (b : Nat) (s : State) (es : List (List Byte)) :
    (writeEcFrom b s es).groups = s.groups := by
  induction es generalizing b s with
  | nil => rfl
  | cons e es ih => rw [writeEcFrom, ih, writeBytes, setBufMem_groups]

theorem blocksBody_groups {s u : State} (h : blocksBody s = .ok u) : u.groups = s.groups := by
  obtain ⟨es, -, rfl⟩ := blocksBody_cases h
  exact writeEcFrom_groups 0 s es

/-- The checks of an RS command: those of the layout, and then its own (R403). -/
theorem layoutFits_of_checks {s : State} {checks : List (Bool × CommandError)}
    (h : firstError (layoutChecks s ++ checks) = none) : LayoutFits s ∧ ∀ c ∈ checks, c.1 = false := by
  rw [firstError_append, Option.or_eq_none_iff, firstError_eq_none checks] at h
  exact ⟨layoutFits_of_layoutChecks h.1, h.2⟩

/-! The commands that write registers alone: each for any value written, so that no proof looks into the computation. -/

theorem storageOk_writeResult {s : State} (v : Nat) (hs : storageOk s) : storageOk (writeResult v s) := hs

theorem storageOk_withSelection {s : State} (m : BitVec 3) (hs : storageOk s) :
    storageOk { s with selMask := m, selValid := true } := hs

theorem storageOk_recordPenalty {s : State} (k : Nat) (p : Nat × Nat × Nat × Nat) (hs : storageOk s) :
    storageOk (recordPenalty k p s) := hs

theorem exec_keeps_storageOk {i : Instr} {s t : State} (hs : storageOk s) (h : exec i s = .next t) : storageOk t := by
  cases i <;> simp only [exec, execNop, execGfExp, execGfLog, execGfMul, execPolyNew, execPolyCopy, execPolyMul, execPolyMod,
    execPolyGen, execRsFinalize, execRsBlocks, execRsInterleave, execRsEncode, execMaskEval, execMaskSelect,
    execMaskClear] at h <;>
    refine complete_ind storageOk h (fun _ => hs) (fun u hchecks hu => (?_ : storageOk u))
  case nop | maskClear =>
    cases hu
    exact hs
  case gfExp =>
    cases hu
    exact storageOk_writeResult _ hs
  case gfLog | gfMul =>
    split at hu <;> cases hu
    exact storageOk_writeResult _ hs
  case maskEval k =>
    cases hu
    exact storageOk_recordPenalty k _ hs
  case maskSelect =>
    cases hu
    exact storageOk_withSelection _ hs
  case polyNew p shift =>
    cases hu
    rw [firstError_append, Option.or_eq_none_iff] at hchecks
    exact storageOk_writePoly p hs (by simpa [firstError_eq_none] using hchecks.2)
  case polyCopy dst src =>
    cases hu
    exact storageOk_writePoly dst hs (by simpa using polyLen_le_of_readPolyChecks hs hchecks)
  case polyMul =>
    split at hu <;> cases hu
    exact storageOk_writePoly .pr hs (length_le_of_polyMulChecks hchecks ‹_›)
  case polyMod =>
    split at hu <;> cases hu
    simp only [polyModChecks, firstError_append, Option.or_eq_none_iff] at hchecks
    have hle := (length_polyMod ‹_›).2
    rw [length_readPoly] at hle
    exact storageOk_writePoly .pr hs (hle.trans (polyLen_le_of_readPolyChecks hs hchecks.1.1))
  case polyGen n =>
    split at hu <;> cases hu
    have hn : n ≤ 255 := by simpa [firstError_eq_none] using hchecks
    exact storageOk_writePoly .pr hs ((length_polyGen_le ‹_›).trans (Nat.succ_le_succ hn))
  case rsFinalize =>
    cases hu
    obtain ⟨hlayout, hown⟩ := layoutFits_of_checks hchecks
    simp only [List.forall_mem_cons] at hown
    obtain ⟨-, hoverflow, -⟩ := hown
    exact storageOk_finalizeBody hs hlayout hoverflow
  case rsBlocks => exact storageOk_blocksBody hs (layoutFits_of_checks hchecks).1 hu
  case rsInterleave =>
    cases hu
    obtain ⟨hlayout, hown⟩ := layoutFits_of_checks hchecks
    exact storageOk_interleaveBody hs hlayout (List.forall_mem_cons.1 hown).1
  case rsEncode =>
    obtain ⟨hlayout, hown⟩ := layoutFits_of_checks hchecks
    simp only [List.forall_mem_cons] at hown
    obtain ⟨-, hcw, hoverflow, -⟩ := hown
    split at hu <;> cases hu
    next v hv =>
      have hgroups : v.groups = s.groups := (blocksBody_groups hv).trans (finalizeBody_groups s)
      have hfinal := storageOk_finalizeBody hs hlayout hoverflow
      have hblocks := storageOk_blocksBody hfinal (hlayout.of_groups_eq (finalizeBody_groups s)) hv
      refine storageOk_interleaveBody hblocks (hlayout.of_groups_eq hgroups) ?_
      have htotal : totalCw v = totalCw s := by rw [totalCw, hgroups, totalCw]
      rwa [streamOverCw, htotal]

/-! ### The accesses of the host -/

/-- A performed access has passed BUSY, READ_ONLY and the checks of its own register (R411). -/
theorem checks_of_accessCheck {s : State} {dir : Dir} {w : Nat} {o : BitVec 12} {r : Reg}
    (h : accessCheck s dir w o = none) (hr : regAt o = some r) :
    (s.busy = true → allowedWhileBusy dir r = true) ∧ portCheck s dir r = none := by
  simp only [accessCheck, hr] at h
  split at h
  · contradiction
  · split at h
    · contradiction
    · next hbusy =>
      split at h
      · contradiction
      · exact ⟨fun hb => by simpa [hb] using hbusy, h⟩

/-- A performed BUF_DATA access is below the capacity of the selected buffer (R102). -/
theorem bufIndex_lt_of_portCheck {s : State} {dir : Dir} (h : portCheck s dir .bufData = none) :
    s.bufIndex.toNat < (selectedBuf s).cap := by
  simp only [portCheck, bufPortCheck] at h
  split at h
  · contradiction
  · next b hb =>
    rw [selectedBuf, hb, Option.getD_some]
    split at h
    · contradiction
    · omega

/-- A performed MAT_DATA access is inside the matrix and so inside MAT (R107). -/
theorem matAddr_lt_of_portCheck {s : State} {dir : Dir} (h : portCheck s dir .matData = none) :
    s.matRow.toNat < Config.sideMax ∧ s.matWord.toNat < Config.matWords := by
  simp only [portCheck, matPortCheck] at h
  split at h
  · contradiction
  · next hinside =>
    simp only [matRowWords, matBound, Config.sideMax, Config.matWords] at hinside ⊢
    omega

theorem storageOk_advanceMat {s : State} (hs : storageOk s) : storageOk (advanceMat s) := by
  rw [advanceMat]
  split <;> exact hs

theorem storageOk_deviceReset (s : State) : storageOk (deviceReset s) := by
  simp [storageOk, memoryOk, bufOk, bufMem, lengthsOk]

theorem afterWrite_keeps_storageOk {s : State} (v : Word) {r : Reg} (hs : storageOk s)
    (hport : portCheck s .write r = none) : storageOk (afterWrite s v r) := by
  cases r with
  | ctrl =>
    simp only [afterWrite]
    split
    · exact storageOk_deviceReset s
    · exact hs
  | bufData => exact storageOk_writeByte (b := selectedBuf s) hs (bufIndex_lt_of_portCheck hport) _
  | matData =>
    obtain ⟨hrow, hword⟩ := matAddr_lt_of_portCheck hport
    exact storageOk_advanceMat (storageOk_writeMatWord hs hrow hword v)
  | _ => exact hs

/-- Settles O18, over the moves of a step: each command's checks bound what it writes, and each port's check the place. -/
theorem stepKeepsMemoriesCanonicalAndBounded : Obligations.StepKeepsMemoriesCanonicalAndBounded := by
  intro s t hs hstep
  refine step_ind storageOk hstep hs (hturn := fun _ _ h => h) (hhost := fun _ _ h => h) (hrep := fun _ _ h => h)
    (hacc := fun _ _ _ h => h) (hreset := fun s _ => storageOk_deviceReset s) (hread := ?hread) (hwrite := ?hwrite)
    (hill := fun _ h _ => h) (hexec := ?hexec)
  case hread =>
    intro s _ _ r h _ _
    obtain ⟨u, hu⟩ := afterRead_frame s r
    rw [hu]
    exact h
  case hwrite => exact fun s _ _ v r h hcheck hr => afterWrite_keeps_storageOk v h (checks_of_accessCheck hcheck hr).2
  case hexec => exact fun i s t h _ => exec_keeps_storageOk h

end Sys2Proof.Machine
end

section
/-! PROOFS. The two streaming ports BUF_DATA and MAT_DATA (R101 to R108): what a performed access transfers and how its
pointer advances. -/

namespace Sys2Proof.Machine

/-- A 32-bit access at a register's offset on an idle device whose own check passes is performed (R411). -/
theorem accessCheck_idle {s : State} {dir : Dir} {r : Reg} (hidle : s.busy = false)
    (hro : dir = .read ∨ regReadOnly r = false) (hport : portCheck s dir r = none) :
    accessCheck s dir 32 (BitVec.ofNat 12 (regOffset r)) = none := by
  rw [accessCheck_regOffset, if_neg (by simp [hidle]), if_neg (by rintro ⟨rfl, h⟩; simp [h] at hro), hport]

theorem hostRead_of_portCheck {s : State} {r : Reg} (hidle : s.busy = false) (hport : portCheck s .read r = none) :
    hostRead s 32 (BitVec.ofNat 12 (regOffset r)) = (afterRead s r, regValue s r) := by
  rw [hostRead, accessCheck_idle hidle (.inl rfl) hport, regAt_regOffset]

theorem hostWrite_of_portCheck {s : State} {r : Reg} (v : Word) (hidle : s.busy = false) (hro : regReadOnly r = false)
    (hport : portCheck s .write r = none) : hostWrite s 32 (BitVec.ofNat 12 (regOffset r)) v = afterWrite s v r := by
  rw [hostWrite, accessCheck_idle hidle (.inr hro) hport, regAt_regOffset]

/-! ### BUF_DATA -/

/-- The SEL code of a buffer names the buffer: the codes are distinct (R101). -/
theorem bufOfSel_of_toNat_eq {sel : BitVec 4} {b : Buf} (h : sel.toNat = b.sel) : bufOfSel sel = some b := by
  have hsel : sel = BitVec.ofNat 4 b.sel := eq_ofNat_of_toNat_eq h
  subst hsel
  cases b <;> rfl

theorem selectedBuf_of_toNat_eq {s : State} {b : Buf} (h : s.bufSel.toNat = b.sel) : selectedBuf s = b := by
  rw [selectedBuf, bufOfSel_of_toNat_eq h, Option.getD_some]

/-- The port passes an access below the capacity of a buffer that the direction may use (R102). -/
theorem portCheck_bufData {s : State} {dir : Dir} {b : Buf} (hsel : s.bufSel.toNat = b.sel)
    (hindex : s.bufIndex.toNat < b.cap) (hdir : dir = .read ∨ b.hostReadOnly = false) :
    portCheck s dir .bufData = none := by
  rw [portCheck, bufPortCheck, bufOfSel_of_toNat_eq hsel]
  have hro : ¬(dir = .write ∧ b.hostReadOnly = true) := by
    rintro ⟨rfl, h⟩
    simp [h] at hdir
  exact (if_neg (by omega)).trans (if_neg hro)

@[simp] theorem readByte_advanceBuf (s : State) (b : Buf) (i : Nat) : readByte (advanceBuf s) b i = readByte s b i := by
  simp [readByte]

/-- Settles O53: the port's check passes, and the access transfers the byte at INDEX before it moves INDEX on. -/
theorem bufDataTransfersOneByte : Obligations.BufDataTransfersOneByte := by
  intro s b v hidle hsel hindex
  have hbuf : selectedBuf s = b := selectedBuf_of_toNat_eq hsel
  constructor
  · rw [← hbuf]
    exact hostRead_of_portCheck (r := .bufData) hidle (portCheck_bufData hsel hindex (.inl rfl))
  · intro hb
    have hro : b.hostReadOnly = false := by rcases hb with rfl | rfl | rfl <;> rfl
    have hwrite : hostWrite s 32 0x028#12 v = advanceBuf (writeByte s b s.bufIndex.toNat (v.extractLsb' 0 8)) :=
      hbuf ▸ hostWrite_of_portCheck (r := .bufData) v hidle rfl (portCheck_bufData hsel hindex (.inr hro))
    rw [hwrite]
    refine ⟨by simp [writeByte], fun b' i => by rw [readByte_advanceBuf, readByte_writeByte], ?_⟩
    rcases hb with rfl | rfl | rfl <;> rfl

/-! ### MAT_DATA -/

/-- The port passes an access inside the matrix (R107). -/
theorem portCheck_matData {s : State} (dir : Dir) (hrow : s.matRow.toNat < matBound s)
    (hword : s.matWord.toNat < matRowWords s) : portCheck s dir .matData = none :=
  if_neg (by omega)

@[simp] theorem matCell_advanceMat (s : State) (r c : Nat) : matCell (advanceMat s) r c = matCell s r c := by
  rw [advanceMat]
  split <;> rfl

/-- The cells of a row after one of its words was written: 32 of them, leftmost from bit 31 (R106). -/
theorem matCell_writeMatWord (s : State) {word r c : Nat} (row : Nat) (v : Word) (hword : word < 6) (hc : c < 192) :
    matCell (writeMatWord s row word v) r c
      = if r = row ∧ c / 32 = word then v.getLsbD (31 - c % 32) else matCell s r c := by
  rw [matCell, readMatWord_writeMatWord s row word r (c / 32) v hword (by omega)]
  split <;> rfl

/-- The advance of MAT_ADDR is the same whatever MAT holds. -/
theorem advanceMat_writeMatWord (s : State) (row word : Nat) (v : Word) :
    { advanceMat (writeMatWord s row word v) with mat := s.mat } = advanceMat s := by
  have hwords : matRowWords (writeMatWord s row word v) = matRowWords s := rfl
  rw [advanceMat, advanceMat, hwords, writeMatWord_matWord]
  split <;> rfl

/-- Settles O54: the port's check passes, and the access transfers the word at MAT_ADDR before it moves MAT_ADDR on. -/
theorem matDataTransfersOneWord : Obligations.MatDataTransfersOneWord := by
  intro s v hidle hrow hword next
  have hport (dir : Dir) : portCheck s dir .matData = none := portCheck_matData dir hrow hword
  have hwrite : hostWrite s 32 0x064#12 v = advanceMat (writeMatWord s s.matRow.toNat s.matWord.toNat v) :=
    hostWrite_of_portCheck (r := .matData) v hidle rfl (hport .write)
  refine ⟨hostRead_of_portCheck (r := .matData) hidle (hport .read), fun r c hc => ?_, ?_⟩
  · rw [hwrite, matCell_advanceMat, matCell_writeMatWord s _ v (by omega) hc]
  · rw [hwrite]
    exact advanceMat_writeMatWord s _ _ v

end Sys2Proof.Machine
end

section
/-! PROOFS. A command in flight does not see the host (R113, R333): the accesses performed while BUSY = 1 keep `engineView`,
and what a command does is a function of `engineView`. -/

namespace Sys2Proof.Machine

/-! ### The host while a command is in flight -/

theorem engineView_hostRead {s : State} (hbusy : s.busy = true) (w : Nat) (o : BitVec 12) :
    engineView (hostRead s w o).1 = engineView s := by
  refine hostRead_ind (fun u => engineView u = engineView s) s w o rfl (fun _ _ => rfl) (fun r hcheck hr => ?_)
  have hallowed := (checks_of_accessCheck hcheck hr).1 hbusy
  rw [afterRead_of_not_port s (by rintro rfl; contradiction) (by rintro rfl; contradiction)]

theorem allowedWhileBusy_write {r : Reg} : allowedWhileBusy .write r = true ↔ r = .status ∨ r = .ctrl := by
  simp [allowedWhileBusy]

/-- The writes performed while BUSY = 1 are those of STATUS and CTRL, and a soft reset would end the command (R113, R335). -/
theorem engineView_hostWrite {s : State} (hbusy : s.busy = true) (w : Nat) (o : BitVec 12) (v : Word)
    (hbusy' : (hostWrite s w o v).busy = true) : engineView (hostWrite s w o v) = engineView s := by
  refine hostWrite_ind (fun u => u.busy = true → engineView u = engineView s) s w o v (fun _ => rfl) (fun _ _ _ => rfl)
    (fun r hcheck hr hu => ?_) hbusy'
  rcases allowedWhileBusy_write.1 ((checks_of_accessCheck hcheck hr).1 hbusy) with rfl | rfl
  · rfl
  · rw [afterWrite] at hu ⊢
    split at hu
    · contradiction
    · next hfields => rw [if_neg hfields]; rfl

/-- No input that leaves the command in flight changes what the engine depends on. -/
theorem engineView_hostTurn {s : State} (hbusy : s.busy = true) (hbusy' : (hostTurn s).busy = true) :
    engineView (hostTurn s) = engineView s := by
  unfold hostTurn at hbusy' ⊢
  split at hbusy'
  · rfl
  · next w o rest _ => exact engineView_hostRead (s := { s with host := rest }) hbusy w o
  · next w o v rest _ => exact engineView_hostWrite (s := { s with host := rest }) hbusy w o v hbusy'
  · next rest _ =>
    refine (engineView_hostRead ?_ 32 0x004#12).trans ?_
    · split <;> exact hbusy
    · split <;> rfl
  · contradiction

/-! ### The command -/

theorem writeBytes_engineView (s : State) (b : Buf) (base : Nat) (vs : List Byte) :
    writeBytes (engineView s) b base vs = engineView (writeBytes s b base vs) := by
  cases b <;> rfl

theorem writePoly_engineView (s : State) (p : PolyBuf) (r : Poly) :
    writePoly (engineView s) p r = engineView (writePoly s p r) := by
  cases p <;> rfl

theorem writeEcFrom_engineView (b : Nat) (s : State) (es : List (List Byte)) :
    writeEcFrom b (engineView s) es = engineView (writeEcFrom b s es) := by
  induction es generalizing b s with
  | nil => rfl
  | cons e es ih => rw [writeEcFrom, writeBytes_engineView, ih, writeEcFrom]

theorem readByte_engineView (s : State) (b : Buf) (i : Nat) : readByte (engineView s) b i = readByte s b i := by
  cases b <;> rfl

theorem readBytes_engineView (s : State) (b : Buf) (base n : Nat) :
    readBytes (engineView s) b base n = readBytes s b base n := by
  simp only [readBytes, readByte_engineView]

theorem readPoly_engineView (s : State) (p : PolyBuf) : readPoly (engineView s) p = readPoly s p := by
  cases p <;> rfl

theorem readPolyChecks_engineView (s : State) (p : PolyBuf) : readPolyChecks (engineView s) p = readPolyChecks s p := by
  cases p <;> rfl

theorem dataSeqsFrom_engineView (s : State) (off : Nat) (bs : List Block) :
    dataSeqsFrom (engineView s) off bs = dataSeqsFrom s off bs := by
  induction bs generalizing off with
  | nil => rfl
  | cons b bs ih => rw [dataSeqsFrom, readBytes_engineView, ih, dataSeqsFrom]

theorem ecSeqsFrom_engineView (s : State) (b : Nat) (bs : List Block) :
    ecSeqsFrom (engineView s) b bs = ecSeqsFrom s b bs := by
  induction bs generalizing b with
  | nil => rfl
  | cons k bs ih => rw [ecSeqsFrom, readBytes_engineView, ih, ecSeqsFrom]

theorem dataSeqs_engineView (s : State) : dataSeqs (engineView s) = dataSeqs s :=
  dataSeqsFrom_engineView s 0 (blocks s)

theorem codewordStream_engineView (s : State) : codewordStream (engineView s) = codewordStream s :=
  congrArg₂ interleave (dataSeqs_engineView s) (ecSeqsFrom_engineView s 0 (blocks s))

theorem finalizeBody_engineView (s : State) : finalizeBody (engineView s) = engineView (finalizeBody s) := rfl

theorem interleaveBody_engineView (s : State) : interleaveBody (engineView s) = engineView (interleaveBody s) := by
  rw [interleaveBody, codewordStream_engineView]
  rfl

theorem blocksBody_engineView (s : State) : blocksBody (engineView s) = (blocksBody s).map engineView := by
  have hblocks : blocks (engineView s) = blocks s := rfl
  rw [blocksBody, blocksBody, hblocks, dataSeqs_engineView]
  cases ecSeqsOf (blocks s) (dataSeqs s) with
  | none => rfl
  | some es =>
    simp only [writeEcFrom_engineView]
    rfl

/-- A completion whose checks are the same and whose effect is the same to the engine's view. -/
theorem complete_engineView {checks : List (Bool × CommandError)} {effect effect' : Except CommandError State} {s t : State}
    (heffect : effect' = effect.map engineView) (h : complete checks effect s = .next t) :
    ∃ t', complete checks effect' (engineView s) = .next t' ∧ engineView t' = engineView t := by
  subst heffect
  rcases complete_cases h with ⟨e, hchecks, rfl⟩ | ⟨hchecks, e, rfl, rfl⟩ | ⟨hchecks, u, rfl, rfl⟩
  · exact ⟨_, complete_error hchecks, rfl⟩
  · exact ⟨commandError e (engineView s), by simp [complete, hchecks, Except.map], rfl⟩
  · exact ⟨_, complete_ok hchecks, rfl⟩

/-- What a command does is a function of the engine's view. -/
theorem exec_engineView {i : Instr} {s t : State} (h : exec i s = .next t) :
    ∃ t', exec i (engineView s) = .next t' ∧ engineView t' = engineView t := by
  cases i <;> simp only [exec, execNop, execGfExp, execGfLog, execGfMul, execPolyNew, execPolyCopy, execPolyMul, execPolyMod,
    execPolyGen, execRsFinalize, execRsBlocks, execRsInterleave, execRsEncode, execMaskEval, execMaskSelect,
    execMaskClear] at h ⊢
  case nop | gfExp | rsFinalize | maskEval | maskSelect | maskClear => exact complete_engineView rfl h
  case gfLog | gfMul =>
    refine complete_engineView ?_ h
    split <;> rfl
  case polyNew p shift =>
    rw [readPoly_engineView, readPolyChecks_engineView, writePoly_engineView]
    exact complete_engineView rfl h
  case polyCopy dst src =>
    rw [readPoly_engineView, readPolyChecks_engineView, writePoly_engineView]
    exact complete_engineView rfl h
  case polyMul | polyMod | polyGen =>
    simp only [readPoly_engineView, writePoly_engineView]
    refine complete_engineView ?_ h
    split <;> rfl
  case rsBlocks => exact complete_engineView (blocksBody_engineView s) h
  case rsInterleave => exact complete_engineView (congrArg Except.ok (interleaveBody_engineView s)) h
  case rsEncode =>
    rw [finalizeBody_engineView, blocksBody_engineView]
    refine complete_engineView ?_ h
    cases blocksBody (finalizeBody s) with
    | error e => rfl
    | ok u => exact congrArg Except.ok (interleaveBody_engineView u)

/-- Settles O60: the access keeps the engine's view, and the command is a function of it. -/
theorem hostCannotDisturbTheCommand : Obligations.HostCannotDisturbTheCommand := by
  intro i s t u hbusy hbusy' ht hu
  obtain ⟨t', ht', hviewT⟩ := exec_engineView ht
  obtain ⟨u', hu', hviewU⟩ := exec_engineView hu
  rw [engineView_hostTurn hbusy hbusy', ht'] at hu'
  cases hu'
  exact hviewU.symm.trans hviewT

end Sys2Proof.Machine
end

section
/-! PROOFS. The encoding (30_encoding.md). A word spells a command exactly when it matches the command's row and carries
its fields (`decode_eq_ok_iff`); the round trips and the opcode map are this rule, read per command. -/

namespace Sys2Proof

/-! ### The row of a word -/

/-- The rows have distinct opcodes (R150). -/
theorem find?_code (o : Opcode) : Opcode.all.find? (fun p => p.code == o.code) = some o := by cases o <;> rfl

/-- Every mask covers the whole op field (R141 to R148). -/
theorem Format.extract_op_mask (f : Format) : f.mask.extractLsb' 24 8 = BitVec.allOnes 8 := by cases f <;> rfl

theorem Opcode.extract_op_matchWord (o : Opcode) : o.matchWord.extractLsb' 24 8 = o.code := by cases o <;> rfl

/-- A word that matches a row has the row's op, so no other row is tried. -/
theorem opcodeOf_of_matches {w : Word} {o : Opcode} (h : w &&& o.format.mask = o.matchWord) : opcodeOf w = some o := by
  have hop : w.extractLsb' 24 8 = o.code := by
    rw [← o.extract_op_matchWord, ← h, BitVec.extractLsb'_and, Format.extract_op_mask, BitVec.and_allOnes]
  rw [opcodeOf, hop, find?_code]

/-- A word decodes to what a row that it matches reads from it. -/
theorem decode_eq_ok_iff_exists_row {w : Word} {i : Instr} :
    decode w = .ok i ↔ ∃ o : Opcode, w &&& o.format.mask = o.matchWord ∧ readOperands o w = .ok i := by
  constructor
  · intro h
    unfold decode at h
    split at h
    · cases h
    · next o _ =>
      split at h
      · next hmatch => exact ⟨o, hmatch, h⟩
      · cases h
  · rintro ⟨o, hmatch, hread⟩
    simp only [decode, opcodeOf_of_matches hmatch, hmatch, if_true, hread]

/-! ### The fields of a command -/

theorem polyBufOf_eq_some_iff {c : BitVec 2} {p : PolyBuf} : polyBufOf c = some p ↔ c = polyBufCode p := by
  revert c
  cases p <;> decide

theorem exists_polyBufOf_iff {c : BitVec 2} : (∃ p, polyBufOf c = some p) ↔ c ≠ 3#2 := by
  rw [← Option.isSome_iff_exists]
  revert c
  decide

/-- The word carries the command's operands in the fields of the command's format (R141 to R149). -/
def Instr.FieldsIn (w : Word) : Instr → Prop
  | .gfExp n => n = (w.extractLsb' 0 16).toInt
  | .gfLog x => x = w.extractLsb' 0 8
  | .gfMul a b => a = w.extractLsb' 8 8 ∧ b = w.extractLsb' 0 8
  | .polyNew p shift => w.extractLsb' 16 2 = polyBufCode p ∧ shift = (w.extractLsb' 0 9).toNat
  | .polyCopy dst src => w.extractLsb' 16 2 = polyBufCode dst ∧ w.extractLsb' 18 2 = polyBufCode src
  | .polyGen n => n = (w.extractLsb' 0 9).toNat
  | .maskEval k => k = (w.extractLsb' 0 3).toNat
  | .nop | .polyMul | .polyMod | .rsFinalize | .rsBlocks | .rsInterleave | .rsEncode | .maskSelect | .maskClear => True

theorem readOperands_polyNew_eq_ok_iff {w : Word} {i : Instr} : readOperands .polyNew w = .ok i ↔
    ∃ p, polyBufOf (w.extractLsb' 16 2) = some p ∧ i = .polyNew p (w.extractLsb' 0 9).toNat := by
  rw [readOperands]
  cases polyBufOf (w.extractLsb' 16 2) <;> simp [eq_comm]

theorem readOperands_polyCopy_eq_ok_iff {w : Word} {i : Instr} : readOperands .polyCopy w = .ok i ↔
    ∃ dst src, polyBufOf (w.extractLsb' 16 2) = some dst ∧ polyBufOf (w.extractLsb' 18 2) = some src
      ∧ i = .polyCopy dst src := by
  rw [readOperands]
  cases polyBufOf (w.extractLsb' 18 2) <;> cases polyBufOf (w.extractLsb' 16 2) <;> simp [eq_comm]

/-- A row reads exactly the commands of the row whose operands the word carries. -/
theorem readOperands_eq_ok_iff {o : Opcode} {w : Word} {i : Instr} :
    readOperands o w = .ok i ↔ opcodeOfInstr i = o ∧ i.FieldsIn w := by
  cases o with
  | polyNew =>
    rw [readOperands_polyNew_eq_ok_iff]
    cases i <;> simp [opcodeOfInstr, Instr.FieldsIn, polyBufOf_eq_some_iff]
  | polyCopy =>
    rw [readOperands_polyCopy_eq_ok_iff]
    cases i <;> simp [opcodeOfInstr, Instr.FieldsIn, polyBufOf_eq_some_iff]
  | _ => cases i <;> simp [readOperands, opcodeOfInstr, Instr.FieldsIn, eq_comm]

/-- R150: a word spells a command exactly when it has the fixed bits of the command's row and carries its operands. -/
theorem decode_eq_ok_iff {w : Word} {i : Instr} : decode w = .ok i ↔
    w &&& (opcodeOfInstr i).format.mask = (opcodeOfInstr i).matchWord ∧ i.FieldsIn w := by
  simp only [decode_eq_ok_iff_exists_row, readOperands_eq_ok_iff]
  constructor
  · rintro ⟨_, hmatch, rfl, hfields⟩
    exact ⟨hmatch, hfields⟩
  · rintro ⟨hmatch, hfields⟩
    exact ⟨_, hmatch, rfl, hfields⟩

/-! ### Fields placed in a word -/

/-- A field placed at bit k, read at bit k, is the field. -/
@[simp] theorem extractLsb'_shiftLeft_self {n : Nat} (x : BitVec n) {k : Nat} (h : k + n ≤ 32) :
    (x.setWidth 32 <<< k : Word).extractLsb' k n = x := by
  ext i hi
  simp [BitVec.getElem_extractLsb', show k + i < 32 by omega, hi]

/-- A field placed at bit k has no bit in a field that lies wholly above or below it. -/
@[simp] theorem extractLsb'_shiftLeft_disjoint {n : Nat} (x : BitVec n) {k k' n' : Nat} (h : k + n ≤ k' ∨ k' + n' ≤ k) :
    (x.setWidth 32 <<< k : Word).extractLsb' k' n' = 0#n' := by
  ext i hi
  rcases h with h | h
  · simp [BitVec.getElem_extractLsb', show n ≤ k' + i - k by omega]
  · simp [BitVec.getElem_extractLsb', show k' + i < k by omega]

@[simp] theorem extractLsb'_setWidth_self {n : Nat} (x : BitVec n) (h : n ≤ 32) :
    (x.setWidth 32 : Word).extractLsb' 0 n = x := by
  simpa using extractLsb'_shiftLeft_self x (k := 0) (by omega)

@[simp] theorem extractLsb'_setWidth_above {n : Nat} (x : BitVec n) {k' n' : Nat} (h : n ≤ k') :
    (x.setWidth 32 : Word).extractLsb' k' n' = 0#n' := by
  simpa using extractLsb'_shiftLeft_disjoint x (k := 0) (k' := k') (n' := n') (by omega)

/-- A field put back where it was read is those bits of the word. -/
theorem shiftLeft_setWidth_extractLsb' (w : Word) (k n : Nat) :
    (w.extractLsb' k n).setWidth 32 <<< k = w &&& (BitVec.allOnes n).setWidth 32 <<< k := by
  ext i hi
  by_cases hk : i < k
  · simp [hk]
  · by_cases hn : i - k < n <;> simp [hk, hn, show k + (i - k) = i by omega, hi]

theorem setWidth_extractLsb'_zero (w : Word) (n : Nat) :
    (w.extractLsb' 0 n).setWidth 32 = w &&& (BitVec.allOnes n).setWidth 32 := by
  simpa using shiftLeft_setWidth_extractLsb' w 0 n

/-- A word that matches a row is the row's match value and, below it, the bits outside the mask. -/
theorem matchWord_or_and_not_mask {o : Opcode} {w : Word} (h : w &&& o.format.mask = o.matchWord) :
    o.matchWord ||| (w &&& ~~~o.format.mask) = w := by
  rw [← h, ← BitVec.and_or_distrib_left, BitVec.or_not_self, BitVec.and_allOnes]

/-! ### The word of a command, from its fields -/

theorem encode_gfExp_toInt (x : BitVec 16) : encode (.gfExp x.toInt) = 0x01000000#32 ||| x.setWidth 32 := by
  have h : (x.toInt % 65536).toNat = x.toNat := by
    rw [BitVec.toInt_eq_toNat_cond]
    have := x.isLt
    split <;> omega
  rw [encode, h, BitVec.ofNat_toNat]

theorem encode_polyNew_toNat (p : PolyBuf) (x : BitVec 9) : encode (.polyNew p x.toNat)
    = 0x10000000#32 ||| ((polyBufCode p).setWidth 32 <<< 16) ||| x.setWidth 32 := by
  rw [encode, BitVec.ofNat_toNat]

theorem encode_polyGen_toNat (x : BitVec 9) : encode (.polyGen x.toNat) = 0x14000000#32 ||| x.setWidth 32 := by
  rw [encode, BitVec.ofNat_toNat]

theorem encode_maskEval_toNat (x : BitVec 3) : encode (.maskEval x.toNat) = 0x30000000#32 ||| x.setWidth 32 := by
  rw [encode, BitVec.ofNat_toNat]

/-! ### The round trips -/

theorem exists_toNat_eq {n k : Nat} (h : k < 2 ^ n) : ∃ x : BitVec n, x.toNat = k :=
  ⟨BitVec.ofNat n k, Nat.mod_eq_of_lt h⟩

theorem exists_toInt_eq {n : Int} (hlow : -32768 ≤ n) (hhigh : n ≤ 32767) : ∃ x : BitVec 16, x.toInt = n :=
  ⟨BitVec.ofInt 16 n, BitVec.toInt_ofInt_eq_self (by omega) (by omega) (by omega)⟩

/-- The word of a well-formed command matches the command's row. -/
theorem encode_matches {i : Instr} (h : i.wf = true) :
    encode i &&& (opcodeOfInstr i).format.mask = (opcodeOfInstr i).matchWord := by
  cases i with
  | nop => exact Laws.Row.nop h
  | gfExp n => exact Laws.Row.gfExp n h
  | gfLog x => exact Laws.Row.gfLog x h
  | gfMul a b => exact Laws.Row.gfMul a b h
  | polyNew p shift => exact Laws.Row.polyNew p shift h
  | polyCopy dst src => exact Laws.Row.polyCopy dst src h
  | polyMul => exact Laws.Row.polyMul h
  | polyMod => exact Laws.Row.polyMod h
  | polyGen n => exact Laws.Row.polyGen n h
  | rsFinalize => exact Laws.Row.rsFinalize h
  | rsBlocks => exact Laws.Row.rsBlocks h
  | rsInterleave => exact Laws.Row.rsInterleave h
  | rsEncode => exact Laws.Row.rsEncode h
  | maskEval k => exact Laws.Row.maskEval k h
  | maskSelect => exact Laws.Row.maskSelect h
  | maskClear => exact Laws.Row.maskClear h

/-- The word of a well-formed command carries the command's operands. -/
theorem fieldsIn_encode {i : Instr} (h : i.wf = true) : i.FieldsIn (encode i) := by
  cases i with
  | gfExp n =>
    simp only [Instr.wf, Bool.and_eq_true, decide_eq_true_eq] at h
    obtain ⟨x, rfl⟩ := exists_toInt_eq h.1 h.2
    simp [Instr.FieldsIn, encode_gfExp_toInt, BitVec.extractLsb'_or]
  | gfLog x => simp [Instr.FieldsIn, encode, BitVec.extractLsb'_or]
  | gfMul a b => simp [Instr.FieldsIn, encode, BitVec.extractLsb'_or]
  | polyNew p shift =>
    obtain ⟨x, rfl⟩ := exists_toNat_eq (n := 9) (Nat.lt_succ_of_le (of_decide_eq_true h))
    simp [Instr.FieldsIn, encode_polyNew_toNat, BitVec.extractLsb'_or]
  | polyCopy dst src => simp [Instr.FieldsIn, encode, BitVec.extractLsb'_or]
  | polyGen n =>
    obtain ⟨x, rfl⟩ := exists_toNat_eq (n := 9) (Nat.lt_succ_of_le (of_decide_eq_true h))
    simp [Instr.FieldsIn, encode_polyGen_toNat, BitVec.extractLsb'_or]
  | maskEval k =>
    obtain ⟨x, rfl⟩ := exists_toNat_eq (n := 3) (Nat.lt_succ_of_le (of_decide_eq_true h))
    simp [Instr.FieldsIn, encode_maskEval_toNat, BitVec.extractLsb'_or]
  | _ => trivial

/-- Settles O1: the word of a well-formed command matches its row and carries its operands. -/
theorem decodeEncodeGivesTheCommandBack : Obligations.DecodeEncodeGivesTheCommandBack := by
  intro i h
  exact decode_eq_ok_iff.2 ⟨encode_matches h, fieldsIn_encode h⟩

/-- Operands read from a word fit their fields. -/
theorem wf_of_fieldsIn {w : Word} {i : Instr} (h : i.FieldsIn w) : i.wf = true := by
  cases i with
  | gfExp n =>
    obtain rfl := h
    have hlow := (w.extractLsb' 0 16).le_toInt
    have hhigh := (w.extractLsb' 0 16).toInt_lt
    simp only [Instr.wf, Bool.and_eq_true, decide_eq_true_eq]
    omega
  | polyNew p shift =>
    obtain ⟨-, rfl⟩ := h
    exact decide_eq_true (Nat.le_of_lt_succ (BitVec.isLt _))
  | polyGen n =>
    obtain rfl := h
    exact decide_eq_true (Nat.le_of_lt_succ (BitVec.isLt _))
  | maskEval k =>
    obtain rfl := h
    exact decide_eq_true (Nat.le_of_lt_succ (BitVec.isLt _))
  | _ => rfl

/-- Operand bits of w, under a mask that is the complement of a row's, below the row's match value. -/
theorem matchWord_or_and_congr (o : Opcode) {c m w : Word} (hc : c = o.matchWord) (hm : m = ~~~o.format.mask) :
    c ||| (w &&& m) = o.matchWord ||| (w &&& ~~~o.format.mask) := by
  rw [hc, hm]

/-- The word of a command whose operands w carries: the row's match value and w's bits outside the row's mask. -/
theorem encode_of_fieldsIn {w : Word} {i : Instr} (h : i.FieldsIn w) :
    encode i = (opcodeOfInstr i).matchWord ||| (w &&& ~~~(opcodeOfInstr i).format.mask) := by
  cases i with
  | gfExp n =>
    obtain rfl := h
    rw [encode_gfExp_toInt, setWidth_extractLsb'_zero]
    exact matchWord_or_and_congr .gfExp rfl rfl
  | gfLog x =>
    obtain rfl := h
    rw [encode, setWidth_extractLsb'_zero]
    exact matchWord_or_and_congr .gfLog rfl rfl
  | gfMul a b =>
    obtain ⟨rfl, rfl⟩ := h
    rw [encode, shiftLeft_setWidth_extractLsb', setWidth_extractLsb'_zero, BitVec.or_assoc, ← BitVec.and_or_distrib_left]
    exact matchWord_or_and_congr .gfMul rfl rfl
  | polyNew p shift =>
    obtain ⟨hp, rfl⟩ := h
    rw [encode_polyNew_toNat, ← hp, shiftLeft_setWidth_extractLsb', setWidth_extractLsb'_zero, BitVec.or_assoc,
      ← BitVec.and_or_distrib_left]
    exact matchWord_or_and_congr .polyNew rfl rfl
  | polyCopy dst src =>
    obtain ⟨hdst, hsrc⟩ := h
    rw [encode, ← hdst, ← hsrc, shiftLeft_setWidth_extractLsb', shiftLeft_setWidth_extractLsb', BitVec.or_assoc,
      ← BitVec.and_or_distrib_left]
    exact matchWord_or_and_congr .polyCopy rfl rfl
  | polyGen n =>
    obtain rfl := h
    rw [encode_polyGen_toNat, setWidth_extractLsb'_zero]
    exact matchWord_or_and_congr .polyGen rfl rfl
  | maskEval k =>
    obtain rfl := h
    rw [encode_maskEval_toNat, setWidth_extractLsb'_zero]
    exact matchWord_or_and_congr .maskEval rfl rfl
  | _ => simp [encode, opcodeOfInstr, Opcode.format, Format.mask, Opcode.matchWord, Opcode.code]

/-- Settles O2: a decoded word matches its row and carries the operands, which are all of its bits. -/
theorem encodeOfADecodedWordIsTheWord : Obligations.EncodeOfADecodedWordIsTheWord := by
  intro w i h
  obtain ⟨hmatch, hfields⟩ := decode_eq_ok_iff.1 h
  exact ⟨(encode_of_fieldsIn hfields).trans (matchWord_or_and_not_mask hmatch), wf_of_fieldsIn hfields⟩

/-! ### The opcode map -/

theorem Opcode.mem_all (o : Opcode) : o ∈ Opcode.all := by cases o <;> decide

/-- The buffer-code conditions of a row (R149, R150). -/
def Opcode.BuffersLegal (w : Word) : Opcode → Prop
  | .polyNew => w.extractLsb' 16 2 ≠ 3#2
  | .polyCopy => w.extractLsb' 18 2 ≠ 3#2 ∧ w.extractLsb' 16 2 ≠ 3#2
  | _ => True

/-- Only the buffer codes can keep a row from reading its operands. -/
theorem exists_readOperands_eq_ok_iff {o : Opcode} {w : Word} : (∃ i, readOperands o w = .ok i) ↔ o.BuffersLegal w := by
  cases o with
  | polyNew => simp [readOperands_polyNew_eq_ok_iff, Opcode.BuffersLegal, ← exists_polyBufOf_iff]
  | polyCopy => simp [readOperands_polyCopy_eq_ok_iff, Opcode.BuffersLegal, ← exists_polyBufOf_iff, and_comm]
  | _ => simp [readOperands, Opcode.BuffersLegal]

/-- A word spells a command exactly when it matches a row and the buffer-code conditions of that row hold. -/
theorem exists_decode_eq_ok_iff {w : Word} : (∃ i, decode w = .ok i) ↔
    ∃ o ∈ Opcode.all, w &&& o.format.mask = o.matchWord ∧ o.BuffersLegal w := by
  simp only [decode_eq_ok_iff_exists_row, Opcode.mem_all, true_and, ← exists_readOperands_eq_ok_iff, ← exists_and_left]
  exact exists_comm

theorem and_fullMask (w : Word) : w &&& 0xFFFFFFFF#32 = w := BitVec.and_allOnes

/-- A command of a row, as the row's mask and match and the command's fields. -/
theorem decode_eq_ok_iff_of_row (o : Opcode) {w : Word} {i : Instr} {mask c : Word} (hrow : opcodeOfInstr i = o)
    (hmask : o.format.mask = mask) (hmatch : o.matchWord = c) : decode w = .ok i ↔ w &&& mask = c ∧ i.FieldsIn w := by
  rw [decode_eq_ok_iff, hrow, hmask, hmatch]

/-- Where a word carries the operands of a command, the fixed bits of the row decide whether it spells the command. -/
theorem decode_eq_ok_iff_matches (o : Opcode) {w : Word} {i : Instr} {mask c : Word} (hrow : opcodeOfInstr i = o)
    (hmask : o.format.mask = mask) (hmatch : o.matchWord = c) (hfields : i.FieldsIn w) :
    decode w = .ok i ↔ w &&& mask = c := by
  rw [decode_eq_ok_iff_of_row o hrow hmask hmatch, and_iff_left hfields]

/-- A row without operands has one word. -/
theorem decode_eq_ok_iff_eq {w : Word} {i : Instr} {c : Word} (hmask : (opcodeOfInstr i).format.mask = 0xFFFFFFFF#32)
    (hmatch : (opcodeOfInstr i).matchWord = c) (hfields : i.FieldsIn w) : decode w = .ok i ↔ w = c := by
  rw [decode_eq_ok_iff_matches _ rfl hmask hmatch hfields, and_fullMask]

/-- Settles O3: each row is `decode_eq_ok_iff` at its mask and match, and the last clause is the rows of the map in turn. -/
theorem decodeAcceptsExactlyTheOpcodeMap : Obligations.DecodeAcceptsExactlyTheOpcodeMap := by
  intro w
  refine ⟨?nop, ?gfExp, ?gfLog, ?gfMul, fun p => ?polyNew, fun dst src => ?polyCopy, ?polyMul, ?polyMod, ?polyGen,
    ?rsFinalize, ?rsBlocks, ?rsInterleave, ?rsEncode, ?maskEval, ?maskSelect, ?maskClear, ?rows⟩
  case gfExp => exact decode_eq_ok_iff_matches .gfExp rfl rfl rfl rfl
  case gfLog => exact decode_eq_ok_iff_matches .gfLog rfl rfl rfl rfl
  case gfMul => exact decode_eq_ok_iff_matches .gfMul rfl rfl rfl ⟨rfl, rfl⟩
  case polyGen => exact decode_eq_ok_iff_matches .polyGen rfl rfl rfl rfl
  case maskEval => exact decode_eq_ok_iff_matches .maskEval rfl rfl rfl rfl
  case polyNew =>
    refine (decode_eq_ok_iff_of_row .polyNew rfl rfl rfl).trans (and_congr_right fun _ => (and_iff_left rfl).trans ?_)
    cases p <;> rfl
  case polyCopy =>
    refine (decode_eq_ok_iff_of_row .polyCopy rfl rfl rfl).trans (and_congr_right fun _ => ?_)
    cases dst <;> cases src <;> rfl
  case rows =>
    rw [exists_decode_eq_ok_iff]
    simp [Opcode.all, Opcode.BuffersLegal, Opcode.format, Format.mask, Opcode.matchWord, Opcode.code, and_fullMask]
  all_goals exact decode_eq_ok_iff_eq rfl rfl trivial

/-- Settles O4: the eleven words are evaluated. -/
theorem encodingExamplesDecode : Obligations.EncodingExamplesDecode := by
  unfold Obligations.EncodingExamplesDecode
  decide

end Sys2Proof

namespace Sys2Proof.Machine

/-- A step on the engine's turn is the engine's move, with the turn used up. -/
theorem step_of_engine {s : State} (h : nextAgent s = .engine) : step s = engineTurn (takeTurn s) := by
  rw [step, h]

/-- R151: a word in flight that spells no command completes with ILLEGAL_COMMAND. -/
theorem engineTurn_of_error {s : State} {e : DecodeError} (hbusy : s.busy = true) (h : decode s.lastCmd = .error e) :
    engineTurn s = .next (commandError (illegalCommand s.lastCmd) s) := by
  rw [engineTurn, if_pos hbusy, h]

/-- Settles O6: the engine's turn completes the word, and ILLEGAL_COMMAND's report is the record update. -/
theorem stepReportsAnIllegalWord : Obligations.StepReportsAnIllegalWord := by
  intro s e hagent hbusy herr
  rw [step_of_engine hagent, engineTurn_of_error (s := takeTurn s) hbusy herr]
  rfl

end Sys2Proof.Machine
end

section
/-! PROOFS. The field GF(2^8) and its commands (40_gf.md). EXP carries sums of exponents to products and LOG is its inverse
on 0 to 254, so every law of the field is a law of the exponents. -/

namespace Sys2Proof.Machine

/-! ### EXP and LOG -/

/-- The indexes 0 to 254 are the bytes other than 255, over which a table is evaluated. -/
theorem forall_le_254_of_forall_byte {P : Nat → Prop} (h : ∀ x : Byte, x ≠ 255#8 → P x.toNat) : ∀ i ≤ 254, P i := by
  intro i hi
  have htoNat : (BitVec.ofNat 8 i).toNat = i := Nat.mod_eq_of_lt (by omega)
  rw [← htoNat]
  exact h _ fun heq => by simp [heq] at htoNat; omega

/-- LOG takes every entry of EXP below 255 back to its index (R202). -/
theorem gfLog_expEntry : ∀ i ≤ 254, gfLog (expEntry i) = some i :=
  forall_le_254_of_forall_byte (by decide)

/-- The table's last entry is one period after its first (R202). -/
theorem expEntry_255 : expEntry 255 = expEntry 0 := rfl

@[simp] theorem gfExp_zero : gfExp 0 = 1#8 := rfl

theorem gfExp_emod (n : Int) : gfExp (n % 255) = gfExp n := by
  rw [gfExp, gfExp, Int.emod_emod_of_dvd n (dvd_refl 255)]

theorem gfExp_natCast (n : Nat) : gfExp (n : Int) = expEntry (n % 255) := rfl

theorem gfLog_gfExp (n : Int) : gfLog (gfExp n) = some (n % 255).toNat := gfLog_expEntry _ (by omega)

/-- The logarithm of a byte is the one index of 0 to 254 at which EXP holds the byte (R202, R205). -/
theorem gfLog_eq_some_iff {x : Byte} {l : Nat} : gfLog x = some l ↔ l ≤ 254 ∧ expEntry l = x := by
  constructor
  · intro h
    obtain rfl := gfExp_of_gfLog h
    rw [gfLog_gfExp, Option.some_inj] at h
    have hl : l ≤ 254 := by omega
    exact ⟨hl, by rw [gfExp_natCast, Nat.mod_eq_of_lt (by omega)]⟩
  · rintro ⟨hl, rfl⟩
    exact gfLog_expEntry l hl

theorem gfLog_eq_none_iff {x : Byte} : gfLog x = none ↔ x = 0#8 := by simp [gfLog]

theorem exists_gfLog {x : Byte} (h : x ≠ 0#8) : ∃ l, gfLog x = some l := ⟨_, if_neg h⟩

/-- Every non-zero byte is a power of the generator 2 (R202). -/
theorem exists_gfExp_eq {x : Byte} (h : x ≠ 0#8) : ∃ n : Nat, gfExp (n : Int) = x :=
  (exists_gfLog h).imp fun _ => gfExp_of_gfLog

/-- Settles O23: `gfLog_eq_some_iff` gives the index of a byte and that it is the only one. -/
theorem logInvertsExp : Obligations.LogInvertsExp := by
  refine ⟨gfLog_expEntry, fun x hx => ?_, rfl, expEntry_255⟩
  obtain ⟨i, hi⟩ := exists_gfLog hx
  obtain ⟨hle, hexp⟩ := gfLog_eq_some_iff.1 hi
  refine ⟨i, hle, hexp, fun j hj hjx => ?_⟩
  exact Option.some_inj.1 ((gfLog_eq_some_iff.2 ⟨hj, hjx⟩).symm.trans hi)

/-! ### The product -/

/-- The product of two powers of the generator adds their exponents (R206). -/
theorem gfMul_gfExp (m n : Int) : gfMul (gfExp m) (gfExp n) = some (gfExp (m + n)) := by
  simp only [gfMul, gfLog_gfExp]
  rw [← gfExp_emod (m + n), ← gfExp_emod, Option.some_inj]
  congr 1
  omega

theorem gfMul_comm (a b : Byte) : gfMul a b = gfMul b a := by
  rw [gfMul, gfMul]
  cases gfLog a <;> cases gfLog b
  case some.some la lb => simp only [Int.add_comm]
  all_goals rfl

theorem gfMul_assoc {a b c : Byte} (ha : a ≠ 0#8) (hb : b ≠ 0#8) (hc : c ≠ 0#8) :
    (gfMul a b).bind (fun p => gfMul p c) = (gfMul b c).bind (fun q => gfMul a q) := by
  obtain ⟨l, rfl⟩ := exists_gfExp_eq ha
  obtain ⟨m, rfl⟩ := exists_gfExp_eq hb
  obtain ⟨n, rfl⟩ := exists_gfExp_eq hc
  simp only [gfMul_gfExp, Option.bind_some, Int.add_assoc]

theorem one_gfMul {a : Byte} (ha : a ≠ 0#8) : gfMul 1#8 a = some a := by
  obtain ⟨n, rfl⟩ := exists_gfExp_eq ha
  simpa using gfMul_gfExp 0 n

/-- Settles O24: (a) and (b) are that EXP and LOG are inverse, (c) is the law of the exponents, and (e) is an entry of EXP. -/
theorem fieldLawsHold : Obligations.FieldLawsHold := by
  refine ⟨fun a ha => ?inverse, gfLog_gfExp, gfMul_comm, fun a b c => gfMul_assoc, fun a => one_gfMul,
    fun a => BitVec.xor_self, rfl⟩
  case inverse =>
    obtain ⟨l, hl⟩ := exists_gfLog ha
    simp [hl, gfExp_of_gfLog hl]

/-! ### The product modulo 0x11D -/

/-- One index on, EXP is multiplied by 2 modulo 0x11D (R201). -/
theorem expEntry_succ : ∀ i ≤ 254, expEntry (i + 1) = timesAlpha (expEntry i) :=
  forall_le_254_of_forall_byte (by decide)

theorem gfExp_add_one (n : Int) : gfExp (n + 1) = timesAlpha (gfExp n) := by
  rw [gfExp, gfExp, ← expEntry_succ _ (by omega)]
  by_cases hlast : n % 255 = 254
  · rw [show (n + 1) % 255 = 0 by omega, hlast]
    rfl
  · congr 1
    omega

/-- Multiplication by 2 is additive. -/
theorem timesAlpha_xor (x y : Byte) : timesAlpha (x ^^^ y) = timesAlpha x ^^^ timesAlpha y := by
  have hshift : (x ^^^ y) <<< 1 = (x <<< 1) ^^^ (y <<< 1) := BitVec.shiftLeft_xor_distrib x y 1
  have hleft (u v w : Byte) : u ^^^ (v ^^^ w) = v ^^^ (u ^^^ w) := by ac_rfl
  rw [timesAlpha, timesAlpha, timesAlpha, BitVec.getLsbD_xor, hshift]
  cases x.getLsbD 7 <;> cases y.getLsbD 7 <;> simp [BitVec.xor_assoc, BitVec.xor_comm, hleft]

/-- A factor 2 of the left factor is a factor 2 of the product: each step of the product is additive in the left factor. -/
theorem fieldMul_timesAlpha (a b : Byte) : fieldMul (timesAlpha a) b = timesAlpha (fieldMul a b) := by
  refine List.foldl_hom timesAlpha (init := 0#8) fun acc i => ?_
  rw [timesAlpha_xor]
  split <;> rfl

theorem one_fieldMul : ∀ b : Byte, fieldMul 1#8 b = b := by decide

/-- The product modulo 0x11D of two powers of the generator adds their exponents, one factor 2 after the other (R201). -/
theorem fieldMul_gfExp (m : Nat) (n : Int) : fieldMul (gfExp m) (gfExp n) = gfExp (m + n) := by
  induction m with
  | zero => simpa using one_fieldMul (gfExp n)
  | succ m ih =>
    calc fieldMul (gfExp ((m + 1 : Nat) : Int)) (gfExp n)
        = timesAlpha (fieldMul (gfExp m) (gfExp n)) := by rw [Nat.cast_succ, gfExp_add_one, fieldMul_timesAlpha]
      _ = gfExp ((m + 1 : Nat) + n) := by rw [ih, ← gfExp_add_one, Nat.cast_succ, Int.add_right_comm]

/-- R201: the product through the tables is the product modulo 0x11D. -/
theorem gfMul_eq_fieldMul {a b : Byte} (ha : a ≠ 0#8) (hb : b ≠ 0#8) : gfMul a b = some (fieldMul a b) := by
  obtain ⟨m, rfl⟩ := exists_gfExp_eq ha
  obtain ⟨n, rfl⟩ := exists_gfExp_eq hb
  rw [gfMul_gfExp, fieldMul_gfExp]

/-- The recurrence of the table: it holds at its first entry, and multiplication by 2 is additive (R201). -/
theorem expEntry_recurrence {i : Nat} (hi : i ≤ 247) :
    expEntry (i + 8) = expEntry (i + 4) ^^^ expEntry (i + 3) ^^^ expEntry (i + 2) ^^^ expEntry i := by
  induction i with
  | zero => rfl
  | succ i ih =>
    calc expEntry (i + 8 + 1)
        = timesAlpha (expEntry (i + 8)) := expEntry_succ _ (by omega)
      _ = timesAlpha (expEntry (i + 4)) ^^^ timesAlpha (expEntry (i + 3)) ^^^ timesAlpha (expEntry (i + 2))
            ^^^ timesAlpha (expEntry i) := by simp only [ih (by omega), timesAlpha_xor]
      _ = expEntry (i + 4 + 1) ^^^ expEntry (i + 3 + 1) ^^^ expEntry (i + 2 + 1) ^^^ expEntry (i + 1) := by
        simp only [expEntry_succ _ (show i + 4 ≤ 254 by omega), expEntry_succ _ (show i + 3 ≤ 254 by omega),
          expEntry_succ _ (show i + 2 ≤ 254 by omega), expEntry_succ _ (show i ≤ 254 by omega)]

/-- Settles O22: the seed is eight entries of the table, and the product of any two bytes is `gfMul_eq_fieldMul`. -/
theorem theTablesAreTheFieldOfX11D : Obligations.TheTablesAreTheFieldOfX11D := by
  refine ⟨by decide, fun i hlow hhigh => ?recurrence, fun i hi => expEntry_succ i (by omega),
    fun _ _ => gfMul_eq_fieldMul⟩
  case recurrence =>
    obtain ⟨j, rfl⟩ := Nat.exists_eq_add_of_le' hlow
    exact expEntry_recurrence (by omega)

/-! ### The words of the commands -/

/-- The mask of a row keeps the fixed bits above the operands. -/
theorem append_and_mask {n k : Nat} (c : BitVec n) (operands : BitVec k) :
    (c ++ operands) &&& (BitVec.allOnes n ++ 0#k) = c ++ 0#k := by
  rw [BitVec.and_append, BitVec.and_allOnes, BitVec.and_zero]

theorem decode_gfExp_word (imm : BitVec 16) : decode (0x01#8 ++ 0x00#8 ++ imm) = .ok (.gfExp imm.toInt) := by
  refine (decode_eq_ok_iff_matches .gfExp rfl (by decide) (by decide) ?fields).2
    (append_and_mask (0x01#8 ++ 0x00#8) imm)
  case fields => exact congrArg BitVec.toInt BitVec.extractLsb'_append_eq_right.symm

theorem decode_gfLog_word (x : Byte) : decode (0x02#8 ++ 0x0000#16 ++ x) = .ok (.gfLog x) := by
  refine (decode_eq_ok_iff_matches .gfLog rfl (by decide) (by decide) ?fields).2
    (append_and_mask (0x02#8 ++ 0x0000#16) x)
  case fields => exact BitVec.extractLsb'_append_eq_right.symm

theorem decode_gfMul_word (a b : Byte) : decode (0x03#8 ++ 0x00#8 ++ a ++ b) = .ok (.gfMul a b) := by
  have hrow : (0x03#8 ++ 0x00#8 ++ a ++ b) &&& (BitVec.allOnes (8 + 8) ++ 0#8 ++ 0#8)
      = 0x03#8 ++ 0x00#8 ++ 0#8 ++ 0#8 := by
    rw [BitVec.and_append, append_and_mask, BitVec.and_zero]
  have ha : a = (0x03#8 ++ 0x00#8 ++ a ++ b).extractLsb' 8 8 := by
    rw [BitVec.extractLsb'_append_eq_of_le (by omega), BitVec.extractLsb'_append_eq_right]
  have hfields : (Instr.gfMul a b).FieldsIn (0x03#8 ++ 0x00#8 ++ a ++ b) :=
    ⟨ha, BitVec.extractLsb'_append_eq_right.symm⟩
  exact (decode_eq_ok_iff_matches .gfMul rfl (by decide) (by decide) hfields).2 hrow

/-! ### The commands -/

theorem gfMul_of_some {a b : Byte} {la lb : Nat} (ha : gfLog a = some la) (hb : gfLog b = some lb) :
    gfMul a b = some (expEntry ((la + lb) % 255)) := by
  rw [gfMul, ha, hb]
  rfl

theorem gfMul_eq_none {a b : Byte} (h : a = 0#8 ∨ b = 0#8) : gfMul a b = none := by
  rcases h with rfl | rfl
  · rfl
  · rw [gfMul_comm]
    rfl

/-- A command error of cause DOMAIN_ERROR is the report of R402 and nothing else. -/
theorem complete_domainError (n : Nat) (s : State) :
    complete [] (.error (domainError n)) s = .next (afterError .domainError n s) := rfl

/-- A command that computes one number writes it into RESULT and nothing else (R42, R332). -/
theorem complete_writeResult (v : Nat) (s : State) : complete [] (.ok (writeResult v s)) s
    = .next { s with result := BitVec.ofNat 32 v, done := true, busy := false } := rfl

theorem complete_writeResult_byte (v : Byte) (s : State) : complete [] (.ok (writeResult v.toNat s)) s
    = .next { s with result := v.setWidth 32, done := true, busy := false } := by
  rw [complete_writeResult, BitVec.ofNat_toNat]

/-- Settles O26: the logarithm that `gfLog_eq_some_iff` characterises is written, and without one the error is reported. -/
theorem gfLogWritesTheLogarithm : Obligations.GfLogWritesTheLogarithm := by
  refine ⟨decode_gfLog_word, fun x s => ?exec⟩
  case exec =>
    split
    next hx =>
      rw [exec, execGfLog, gfLog_eq_none_iff.2 hx]
      exact complete_domainError 1 s
    next hx =>
      obtain ⟨l, hl⟩ := exists_gfLog hx
      obtain ⟨hle, hexp⟩ := gfLog_eq_some_iff.1 hl
      refine ⟨l, hle, hexp, ?_⟩
      rw [exec, execGfLog, hl]
      exact complete_writeResult l s

/-- Settles O27: the sum of the factors' logarithms is the exponent, and without a product the error is reported. -/
theorem gfMulWritesTheProduct : Obligations.GfMulWritesTheProduct := by
  refine ⟨decode_gfMul_word, fun a b s => ?exec⟩
  case exec =>
    split
    next h =>
      rw [exec, execGfMul, gfMul_eq_none h]
      exact complete_domainError 1 s
    next h =>
      obtain ⟨ha, hb⟩ := not_or.1 h
      obtain ⟨la, hla⟩ := exists_gfLog ha
      obtain ⟨lb, hlb⟩ := exists_gfLog hb
      obtain ⟨hale, haexp⟩ := gfLog_eq_some_iff.1 hla
      obtain ⟨hble, hbexp⟩ := gfLog_eq_some_iff.1 hlb
      refine ⟨la, lb, hale, hble, haexp, hbexp, ?_⟩
      rw [exec, execGfMul, gfMul_of_some hla hlb]
      exact complete_writeResult_byte _ s

/-- Settles O25: `complete_writeResult_byte` at the power of the exponent. -/
theorem gfExpWritesThePower : Obligations.GfExpWritesThePower :=
  ⟨decode_gfExp_word, fun _ s => complete_writeResult_byte _ s⟩

end Sys2Proof.Machine
end

section
/-! PROOFS. The field product of bytes (40_gf.md R201, R207) as the arithmetic of polynomials uses it: it distributes over
the exclusive OR, it is commutative and associative with 0 included, and it has no divisors of zero. -/

namespace Sys2Proof.Machine

@[simp] theorem zero_fieldMul : ∀ b : Byte, fieldMul 0#8 b = 0#8 := by decide

@[simp] theorem fieldMul_zero (a : Byte) : fieldMul a 0#8 = 0#8 := by simp [fieldMul, timesAlpha]

theorem xor_fieldMul (a b c : Byte) : fieldMul (a ^^^ b) c = fieldMul a c ^^^ fieldMul b c := by
  refine List.foldl_hom₂ [7, 6, 5, 4, 3, 2, 1, 0] (· ^^^ ·) _ _ _ 0#8 0#8 fun x y i => ?_
  rw [timesAlpha_xor]
  split
  · ac_rfl
  · simp

theorem gfExp_ne_zero (n : Int) : gfExp n ≠ 0#8 := by
  intro h
  have hlog := gfLog_gfExp n
  rw [h] at hlog
  cases hlog

theorem fieldMul_gfExp_gfExp (m n : Int) : fieldMul (gfExp m) (gfExp n) = gfExp (m + n) :=
  Option.some_inj.1 ((gfMul_eq_fieldMul (gfExp_ne_zero m) (gfExp_ne_zero n)).symm.trans (gfMul_gfExp m n))

theorem fieldMul_comm (a b : Byte) : fieldMul a b = fieldMul b a := by
  by_cases ha : a = 0#8
  · simp [ha]
  by_cases hb : b = 0#8
  · simp [hb]
  exact Option.some_inj.1 (by rw [← gfMul_eq_fieldMul ha hb, gfMul_comm, gfMul_eq_fieldMul hb ha])

@[simp] theorem fieldMul_one (a : Byte) : fieldMul a 1#8 = a := by rw [fieldMul_comm, one_fieldMul]

theorem fieldMul_ne_zero {a b : Byte} (ha : a ≠ 0#8) (hb : b ≠ 0#8) : fieldMul a b ≠ 0#8 := by
  obtain ⟨m, rfl⟩ := exists_gfExp_eq ha
  obtain ⟨n, rfl⟩ := exists_gfExp_eq hb
  rw [fieldMul_gfExp_gfExp]
  exact gfExp_ne_zero _

theorem fieldMul_assoc (a b c : Byte) : fieldMul (fieldMul a b) c = fieldMul a (fieldMul b c) := by
  by_cases ha : a = 0#8
  · simp [ha]
  by_cases hb : b = 0#8
  · simp [hb]
  by_cases hc : c = 0#8
  · simp [hc]
  obtain ⟨l, rfl⟩ := exists_gfExp_eq ha
  obtain ⟨m, rfl⟩ := exists_gfExp_eq hb
  obtain ⟨n, rfl⟩ := exists_gfExp_eq hc
  simp only [fieldMul_gfExp_gfExp, Int.add_assoc]

theorem fieldMul_xor (a b c : Byte) : fieldMul a (b ^^^ c) = fieldMul a b ^^^ fieldMul a c := by
  simp only [fieldMul_comm a, xor_fieldMul]

end Sys2Proof.Machine
end

section
/-! PROOFS. The product of two polynomials (41_poly.md R231). Operands without a zero coefficient have a product, whose
coefficients are the sums of products that `productCoeff` names and whose leading coefficient is not zero. -/

namespace Sys2Proof.Machine

/-! ### Normalisation -/

theorem normalize_of_head_ne_zero {x : Byte} (hx : x ≠ 0#8) (xs : Poly) : normalize (x :: xs) 0 = x :: xs := by
  simp [normalize, hx]

@[simp] theorem normalize_zero_cons (xs : Poly) (shift : Nat) : normalize (0#8 :: xs) shift = normalize xs shift := rfl

/-- R230: only the appended zeros can stand at the head of a normalised sequence. -/
theorem head?_normalize_eq_zero_iff (c : Poly) (shift : Nat) :
    (normalize c shift).head? = some 0#8 ↔ (∀ x ∈ c, x = 0#8) ∧ 0 < shift := by
  induction c with
  | nil => cases shift <;> simp [normalize, List.replicate_succ]
  | cons x xs ih =>
    by_cases hx : x = 0#8
    · subst hx
      simpa using ih
    · simp [normalize, hx]

theorem head?_normalize_ne_zero (c : Poly) : (normalize c 0).head? ≠ some 0#8 := by
  simp [head?_normalize_eq_zero_iff]

/-- Settles O28: the number of leading zeros is the index of the first coefficient that is not zero. -/
theorem normalizeStripsAllLeadingZeros : Obligations.NormalizeStripsAllLeadingZeros := by
  intro c shift
  have hnormalize : normalize c shift = c.drop (c.findIdx (!· == 0#8)) ++ List.replicate shift 0#8 := by
    rw [normalize, List.dropWhile_eq_drop_findIdx_not]
  refine ⟨c.findIdx (!· == 0#8), List.findIdx_le_length, fun i hi => ?zeros, fun hlt => ?nonzero, hnormalize, ?length,
    head?_normalize_eq_zero_iff c shift⟩
  case zeros =>
    rw [List.getD_eq_getElem _ _ (hi.trans_le List.findIdx_le_length)]
    simpa using List.not_of_lt_findIdx hi
  case nonzero =>
    rw [List.getD_eq_getElem _ _ hlt]
    simpa using List.findIdx_getElem (w := hlt)
  case length => rw [hnormalize, List.length_append, List.length_drop, List.length_replicate]

/-! ### The loops of the product -/

/-- The rows of the product, added one place further on for each coefficient of the first factor (R231): `polyMulLoop` with
the field product in the place of the tables. -/
def productPoly : Poly → Poly → Poly
  | [], b => List.replicate (b.length - 1) 0#8
  | x :: xs, b => xorFront (0#8 :: productPoly xs b) (b.map (fieldMul x))

theorem scaleExp_eq_map {b : Poly} (hb : 0#8 ∉ b) (e : Int) : scaleExp e b = some (b.map (fieldMul (gfExp e))) := by
  induction b with
  | nil => rfl
  | cons y ys ih =>
    obtain ⟨hy, hys⟩ := List.ne_and_not_mem_of_not_mem_cons hb
    obtain ⟨l, hl⟩ := exists_gfLog (Ne.symm hy)
    have hrow : gfExp ((l : Int) + e) = fieldMul (gfExp e) y := by
      rw [← gfExp_of_gfLog hl, fieldMul_gfExp_gfExp, Int.add_comm]
    rw [scaleExp, hl, ih hys]
    simp [hrow]

theorem polyMulLoop_eq_productPoly {a b : Poly} (ha : 0#8 ∉ a) (hb : 0#8 ∉ b) :
    polyMulLoop a b = some (productPoly a b) := by
  induction a with
  | nil => rfl
  | cons x xs ih =>
    obtain ⟨hx, hxs⟩ := List.ne_and_not_mem_of_not_mem_cons ha
    obtain ⟨l, hl⟩ := exists_gfLog (Ne.symm hx)
    simp only [polyMulLoop, productPoly, hl, scaleExp_eq_map hb, ih hxs, gfExp_of_gfLog hl]

/-- A zero coefficient has no logarithm, so the product with it raises the error (R231, R205). -/
theorem polyMulLoop_eq_none {a : Poly} (ha : 0#8 ∈ a) (b : Poly) : polyMulLoop a b = none := by
  induction a with
  | nil => cases ha
  | cons x xs ih =>
    rw [polyMulLoop]
    rcases List.mem_cons.1 ha with rfl | hxs
    · rfl
    · rw [ih hxs]
      cases gfLog x with
      | none => rfl
      | some l => cases hrow : scaleExp (l : Int) b <;> simp [hrow]

/-- R242: the leading coefficient of the product is the product of the leading coefficients, so `normalize` strips
nothing. -/
theorem polyMul_eq_productPoly {a b : Poly} (ha0 : a ≠ []) (hb0 : b ≠ []) (ha : 0#8 ∉ a) (hb : 0#8 ∉ b) :
    polyMul a b = some (productPoly a b) := by
  obtain ⟨x, xs, rfl⟩ := List.exists_cons_of_ne_nil ha0
  obtain ⟨y, ys, rfl⟩ := List.exists_cons_of_ne_nil hb0
  have hx : x ≠ 0#8 := fun h => ha (by simp [h])
  have hy : y ≠ 0#8 := fun h => hb (by simp [h])
  have hhead : 0#8 ^^^ fieldMul x y ≠ 0#8 := by simpa using fieldMul_ne_zero hx hy
  rw [polyMul, polyMulLoop_eq_productPoly ha hb]
  exact congrArg some (normalize_of_head_ne_zero hhead _)

theorem polyMul_eq_none {a b : Poly} (hb : b ≠ []) (ha : 0#8 ∈ a) : polyMul a b = none := by
  simp [polyMul, hb, polyMulLoop_eq_none ha, List.ne_nil_of_mem ha]

/-! ### The coefficients of the product -/

@[simp] theorem length_productPoly (a b : Poly) : (productPoly a b).length = a.length + (b.length - 1) := by
  induction a with
  | nil => simp [productPoly]
  | cons x xs ih =>
    simp [productPoly, ih]
    omega

theorem getD_xorFront {r row : Poly} (h : row.length ≤ r.length) (k : Nat) :
    (xorFront r row).getD k 0#8 = r.getD k 0#8 ^^^ row.getD k 0#8 := by
  induction r generalizing row k with
  | nil => simp [List.eq_nil_of_length_eq_zero (Nat.le_zero.1 h), xorFront]
  | cons x xs ih =>
    cases row with
    | nil => simp [xorFront]
    | cons y ys =>
      cases k with
      | zero => rfl
      | succ k => simpa [xorFront] using ih (by simpa using h) k

theorem getD_map_fieldMul (c : Byte) (b : Poly) (k : Nat) :
    (b.map (fieldMul c)).getD k 0#8 = fieldMul c (b.getD k 0#8) := by
  rw [← List.getD_map (f := fieldMul c), fieldMul_zero]

@[simp] theorem productCoeff_nil (b : Poly) (k : Nat) : productCoeff [] b k = 0#8 := by
  have hzero (n : Nat) : xorSum (List.replicate n 0#8) = 0#8 := by
    induction n with
    | zero => rfl
    | succ n ih => simpa [xorSum, List.replicate_succ] using ih
  simp [productCoeff, hzero]

theorem productCoeff_cons_zero (x : Byte) (xs b : Poly) : productCoeff (x :: xs) b 0 = fieldMul x (b.getD 0 0#8) := by
  simp [productCoeff, xorSum]

theorem productCoeff_cons_succ (x : Byte) (xs b : Poly) (k : Nat) :
    productCoeff (x :: xs) b (k + 1) = fieldMul x (b.getD (k + 1) 0#8) ^^^ productCoeff xs b k := by
  rw [productCoeff, List.range_succ_eq_map]
  simp [productCoeff, xorSum, Function.comp_def]

theorem getD_productPoly (a b : Poly) (k : Nat) : (productPoly a b).getD k 0#8 = productCoeff a b k := by
  induction a generalizing k with
  | nil => simp [productPoly]
  | cons x xs ih =>
    have hrow : (b.map (fieldMul x)).length ≤ (0#8 :: productPoly xs b).length := by
      simp
      omega
    rw [productPoly, getD_xorFront hrow, getD_map_fieldMul]
    cases k with
    | zero => simp [productCoeff_cons_zero]
    | succ k => rw [List.getD_cons_succ, ih, productCoeff_cons_succ, BitVec.xor_comm]

end Sys2Proof.Machine
end

section
/-! PROOFS. The remainder of a polynomial division (41_poly.md R232, R233). One pass takes a multiple of the divisor off the
front of the dividend and leaves a leading zero; every leading zero stripped is a zero coefficient of the quotient. -/

namespace Sys2Proof.Machine

/-- The dividend a is q times the divisor b plus r, coefficient by coefficient, where r stands at the end of a; q has the
coefficients of the places of a at which b fits. -/
structure Division (a b q r : Poly) : Prop where
  length_remainder : r.length ≤ a.length
  length_quotient : q.length = a.length + 1 - b.length
  coeff (k : Nat) : a.getD k 0#8 = productCoeff q b k ^^^ (List.replicate (a.length - r.length) 0#8 ++ r).getD k 0#8

theorem division_of_length_lt {a b : Poly} (h : a.length < b.length) : Division a b [] a where
  length_remainder := le_rfl
  length_quotient := by simp; omega
  coeff k := by simp

/-- A leading zero of the dividend is a zero coefficient of the quotient, once the dividend is as long as the divisor. -/
theorem exists_division_zero_cons {a b r : Poly} (h : ∃ q, Division a b q r) : ∃ q, Division (0#8 :: a) b q r := by
  obtain ⟨q, hr, hq, hcoeff⟩ := h
  have hpad : List.replicate ((0#8 :: a).length - r.length) 0#8 ++ r
      = 0#8 :: (List.replicate (a.length - r.length) 0#8 ++ r) := by
    rw [List.length_cons, Nat.succ_sub hr, List.replicate_succ, List.cons_append]
  by_cases hlen : a.length + 1 < b.length
  · obtain rfl : q = [] := List.eq_nil_of_length_eq_zero (by omega)
    refine ⟨[], hr.trans (Nat.le_succ _), by simp; omega, fun k => ?_⟩
    rw [hpad]
    cases k with
    | zero => simp
    | succ k => simpa using hcoeff k
  · refine ⟨0#8 :: q, hr.trans (Nat.le_succ _), by simp; omega, fun k => ?_⟩
    rw [hpad]
    cases k with
    | zero => simp [productCoeff_cons_zero]
    | succ k => simpa [productCoeff_cons_succ] using hcoeff k

/-- The stripped leading zeros do not matter to a division. -/
theorem exists_division_of_normalize {a b r : Poly} (h : ∃ q, Division (normalize a 0) b q r) :
    ∃ q, Division a b q r := by
  induction a with
  | nil => exact h
  | cons x xs ih =>
    by_cases hx : x = 0#8
    · subst hx
      exact exists_division_zero_cons (ih h)
    · rwa [normalize_of_head_ne_zero hx] at h

/-- A pass of poly_mod puts its multiple of the divisor at the front of the quotient (R232). -/
theorem division_cons {a b q r rest : Poly} {c : Byte} (hlen : b.length ≤ a.length)
    (hpass : xorFront a (b.map (fieldMul c)) = 0#8 :: rest) (h : Division rest b q r) : Division a b (c :: q) r := by
  obtain ⟨hr, hq, hcoeff⟩ := h
  have hlength : a.length = rest.length + 1 := by simpa using congrArg List.length hpass
  refine ⟨by omega, by simp; omega, fun k => ?_⟩
  have hfront := getD_xorFront (row := b.map (fieldMul c)) (by simpa using hlen) k
  rw [hpass, getD_map_fieldMul] at hfront
  have ha : a.getD k 0#8 = (0#8 :: rest).getD k 0#8 ^^^ fieldMul c (b.getD k 0#8) := by
    rw [hfront, BitVec.xor_assoc, BitVec.xor_self, BitVec.xor_zero]
  rw [ha, hlength, Nat.succ_sub hr, List.replicate_succ, List.cons_append]
  cases k with
  | zero => simp [productCoeff_cons_zero]
  | succ k =>
    rw [List.getD_cons_succ, List.getD_cons_succ, hcoeff, productCoeff_cons_succ]
    ac_rfl

/-- One pass of the loop (R232, R233(b)): it cancels the leading coefficient and does not fault. -/
theorem exists_polyModLoop_pass {a b : Poly} (hb0 : b ≠ []) (hb : 0#8 ∉ b) (hlen : b.length ≤ a.length)
    (ha : a.head? ≠ some 0#8) (fuel : Nat) :
    ∃ c rest, xorFront a (b.map (fieldMul c)) = 0#8 :: rest
      ∧ polyModLoop (fuel + 1) a b = polyModLoop fuel (normalize rest 0) b := by
  obtain ⟨y, ys, rfl⟩ := List.exists_cons_of_ne_nil hb0
  obtain ⟨x, xs, rfl⟩ := List.exists_cons_of_length_pos (Nat.lt_of_lt_of_le (Nat.succ_pos _) hlen)
  obtain ⟨la, hla⟩ := exists_gfLog (x := x) fun h => ha (by simp [h])
  obtain ⟨lb, hlb⟩ := exists_gfLog (x := y) fun h => hb (by simp [h])
  have hcancel : x ^^^ fieldMul (gfExp ((la : Int) - (lb : Int))) y = 0#8 := by
    rw [← gfExp_of_gfLog hla, ← gfExp_of_gfLog hlb, fieldMul_gfExp_gfExp, sub_add_cancel, BitVec.xor_self]
  have hpass : xorFront (x :: xs) ((y :: ys).map (fieldMul (gfExp ((la : Int) - (lb : Int)))))
      = 0#8 :: xorFront xs (ys.map (fieldMul (gfExp ((la : Int) - (lb : Int))))) := by
    rw [List.map_cons, xorFront, hcancel]
  refine ⟨_, _, hpass, ?_⟩
  rw [polyModLoop, if_neg (Nat.not_lt.2 hlen)]
  simp only [List.headD_cons, hla, hlb, scaleExp_eq_map hb, hpass, normalize_zero_cons]

/-- A dividend without a leading zero has a remainder without one (R232, R233(c)). -/
theorem exists_polyModLoop {fuel : Nat} {a b : Poly} (hb0 : b ≠ []) (hb : 0#8 ∉ b) (hfuel : a.length < fuel)
    (ha : a.head? ≠ some 0#8) :
    ∃ r, polyModLoop fuel a b = some r ∧ r.head? ≠ some 0#8 ∧ ∃ q, Division a b q r := by
  induction fuel generalizing a with
  | zero => omega
  | succ fuel ih =>
    by_cases hlen : a.length < b.length
    · exact ⟨a, by rw [polyModLoop, if_pos hlen], ha, [], division_of_length_lt hlen⟩
    · obtain ⟨c, rest, hpass, hloop⟩ := exists_polyModLoop_pass hb0 hb (Nat.not_lt.1 hlen) ha fuel
      have hrest : a.length = rest.length + 1 := by simpa using congrArg List.length hpass
      have hnorm := length_normalize_le rest 0
      obtain ⟨r, hr, hhead, hdiv⟩ := ih (a := normalize rest 0) (by omega) (head?_normalize_ne_zero rest)
      obtain ⟨q, hq⟩ := exists_division_of_normalize hdiv
      exact ⟨r, hloop.trans hr, hhead, c :: q, division_cons (Nat.not_lt.1 hlen) hpass hq⟩

theorem exists_polyMod {a b : Poly} (hb0 : b ≠ []) (hb : 0#8 ∉ b) (ha : a.head? ≠ some 0#8) :
    ∃ r, polyMod a b = some r ∧ r.head? ≠ some 0#8 ∧ ∃ q, Division a b q r := by
  simpa [polyMod, hb0] using exists_polyModLoop hb0 hb (Nat.lt_succ_self a.length) ha

/-- A dividend shorter than the divisor is the remainder as it stands (R232). -/
theorem polyMod_of_length_lt {a b : Poly} (h : a.length < b.length) : polyMod a b = some a := by
  have hb0 : b ≠ [] := List.ne_nil_of_length_pos (Nat.zero_lt_of_lt h)
  simp [polyMod, polyModLoop, hb0, h]

end Sys2Proof.Machine
end

section
/-! PROOFS. The generator polynomials (41_poly.md R234, R235). Multiplication by (x - α^n) is a recurrence of the
coefficients, by which consecutive coefficients of a generator stand in the ratio (α^n + α^k) : (α^(k+1) + 1). So no
coefficient is zero while the powers of α are distinct, and the inner ones are zero where α^n = 1. -/

namespace Sys2Proof.Machine

/-! ### Multiplication by a linear factor -/

/-- The coefficients of c · (x - e), from the highest degree: each is the coefficient of c there and e times the one before
it, which is `carry` before the first. -/
def timesLinear (e : Byte) : Byte → Poly → Poly
  | carry, [] => [fieldMul e carry]
  | carry, x :: xs => (x ^^^ fieldMul e carry) :: timesLinear e x xs

@[simp] theorem length_timesLinear (e carry : Byte) (c : Poly) : (timesLinear e carry c).length = c.length + 1 := by
  induction c generalizing carry with
  | nil => rfl
  | cons x xs ih => simp [timesLinear, ih]

theorem getD_timesLinear_zero (e carry : Byte) (c : Poly) :
    (timesLinear e carry c).getD 0 0#8 = c.getD 0 0#8 ^^^ fieldMul e carry := by
  cases c <;> simp [timesLinear]

theorem getD_timesLinear_succ (e carry : Byte) (c : Poly) (k : Nat) :
    (timesLinear e carry c).getD (k + 1) 0#8 = c.getD (k + 1) 0#8 ^^^ fieldMul e (c.getD k 0#8) := by
  induction c generalizing carry k with
  | nil => simp [timesLinear]
  | cons x xs ih =>
    rw [timesLinear, List.getD_cons_succ, List.getD_cons_succ]
    cases k with
    | zero => exact getD_timesLinear_zero e x xs
    | succ k => exact ih x k

/-- A carry is e times a coefficient that stood before the first. -/
theorem xorFront_timesLinear_zero (e carry : Byte) (c : Poly) :
    xorFront (timesLinear e 0#8 c) [fieldMul e carry] = timesLinear e carry c := by
  cases c <;> simp [timesLinear, xorFront]

theorem productPoly_linear (c : Poly) (e : Byte) : productPoly c [1#8, e] = timesLinear e 0#8 c := by
  induction c with
  | nil => simp [productPoly, timesLinear]
  | cons x xs ih =>
    rw [productPoly, ih, List.map_cons, List.map_cons, List.map_nil, xorFront, fieldMul_comm x e,
      xorFront_timesLinear_zero, timesLinear]
    simp

/-- The value at y of a polynomial whose coefficients go on with c, where those before c have the value acc. -/
def evalFrom (y acc : Byte) (c : Poly) : Byte := c.foldl (fun acc k => fieldMul acc y ^^^ k) acc

theorem evalPoly_eq_evalFrom (c : Poly) (y : Byte) : evalPoly c y = evalFrom y 0#8 c := rfl

@[simp] theorem evalFrom_nil (y acc : Byte) : evalFrom y acc [] = acc := rfl

@[simp] theorem evalFrom_cons (y acc x : Byte) (xs : Poly) :
    evalFrom y acc (x :: xs) = evalFrom y (fieldMul acc y ^^^ x) xs := rfl

/-- Where a polynomial has the value g before its coefficient `carry`, and so g · y + carry after it, its product with
(x - e) has the value g · y + carry + e · g there. At the end of the coefficients the factor is complete. -/
theorem evalFrom_timesLinear (y e g carry : Byte) (c : Poly) :
    evalFrom y (fieldMul g y ^^^ carry ^^^ fieldMul e g) (timesLinear e carry c)
      = fieldMul (evalFrom y (fieldMul g y ^^^ carry) c) (y ^^^ e) := by
  induction c generalizing g carry with
  | nil =>
    simp only [timesLinear, evalFrom_cons, evalFrom_nil, fieldMul_xor, xor_fieldMul, fieldMul_comm e, fieldMul_assoc]
    ac_rfl
  | cons x xs ih =>
    rw [timesLinear, evalFrom_cons, evalFrom_cons, ← ih (fieldMul g y ^^^ carry) x]
    congr 1
    simp only [xor_fieldMul, fieldMul_comm e, fieldMul_assoc]
    ac_rfl

theorem evalPoly_timesLinear (c : Poly) (e y : Byte) :
    evalPoly (timesLinear e 0#8 c) y = fieldMul (evalPoly c y) (y ^^^ e) := by
  simpa [evalPoly_eq_evalFrom] using evalFrom_timesLinear y e 0#8 0#8 c

/-! ### The generators -/

/-- The product of (x - α^i) for i below n (R234), whether or not a coefficient of a partial product is zero. -/
def genPoly : Nat → Poly
  | 0 => [1#8]
  | n + 1 => timesLinear (gfExp (n : Int)) 0#8 (genPoly n)

@[simp] theorem length_genPoly (n : Nat) : (genPoly n).length = n + 1 := by
  induction n with
  | zero => rfl
  | succ n ih => rw [genPoly, length_timesLinear, ih]

theorem genPoly_ne_nil (n : Nat) : genPoly n ≠ [] := List.ne_nil_of_length_pos (by simp)

theorem getD_genPoly_succ_zero (n : Nat) : (genPoly (n + 1)).getD 0 0#8 = (genPoly n).getD 0 0#8 := by
  simp [genPoly, getD_timesLinear_zero, -List.getD_eq_getElem?_getD]

theorem getD_genPoly_succ_succ (n k : Nat) : (genPoly (n + 1)).getD (k + 1) 0#8
    = (genPoly n).getD (k + 1) 0#8 ^^^ fieldMul (gfExp n) ((genPoly n).getD k 0#8) :=
  getD_timesLinear_succ _ _ _ _

theorem getD_genPoly_zero (n : Nat) : (genPoly n).getD 0 0#8 = 1#8 := by
  induction n with
  | zero => rfl
  | succ n ih => rw [getD_genPoly_succ_zero, ih]

theorem head?_genPoly (n : Nat) : (genPoly n).head? = some 1#8 := by
  obtain ⟨x, xs, h⟩ := List.exists_cons_of_ne_nil (genPoly_ne_nil n)
  have hx := getD_genPoly_zero n
  rw [h] at hx ⊢
  exact congrArg some hx

/-- Each factor (x - α^i) makes α^i a root (R234). -/
theorem evalPoly_genPoly {n i : Nat} (h : i < n) : evalPoly (genPoly n) (gfExp i) = 0#8 := by
  induction n with
  | zero => omega
  | succ n ih =>
    rw [genPoly, evalPoly_timesLinear]
    rcases Nat.lt_succ_iff_lt_or_eq.1 h with hlt | rfl
    · rw [ih hlt, zero_fieldMul]
    · rw [BitVec.xor_self, fieldMul_zero]

/-- The constant coefficient is the product of all the α^i. -/
theorem getD_genPoly_self (n : Nat) : (genPoly n).getD n 0#8 = gfExp ((n.choose 2 : Nat) : Int) := by
  induction n with
  | zero => rfl
  | succ n ih =>
    have hbeyond : (genPoly n).getD (n + 1) 0#8 = 0#8 := List.getD_eq_default _ _ (by simp)
    rw [getD_genPoly_succ_succ, hbeyond, ih, fieldMul_gfExp_gfExp, BitVec.zero_xor, Nat.choose_succ_succ',
      Nat.choose_one_right, Nat.cast_add]

/-! ### The ratio of consecutive coefficients -/

theorem xor_xor_cancel_left (x y z : Byte) : x ^^^ y ^^^ (z ^^^ x) = y ^^^ z := by
  calc x ^^^ y ^^^ (z ^^^ x) = (x ^^^ x) ^^^ (y ^^^ z) := by ac_rfl
    _ = y ^^^ z := by rw [BitVec.xor_self, BitVec.zero_xor]

/-- From the ratio of the coefficients c and c' of degree n, the next coefficient of degree n + 1 in terms of c. -/
theorem ratio_step_right {n k : Int} {c c' : Byte}
    (h : fieldMul (gfExp (k + 1) ^^^ 1#8) c' = fieldMul (gfExp n ^^^ gfExp k) c) :
    fieldMul (gfExp (k + 1) ^^^ 1#8) (c' ^^^ fieldMul (gfExp n) c) = fieldMul (gfExp k ^^^ gfExp (n + 1 + k)) c := by
  have hpow : fieldMul (gfExp (k + 1) ^^^ 1#8) (gfExp n) = gfExp (n + 1 + k) ^^^ gfExp n := by
    rw [xor_fieldMul, fieldMul_gfExp_gfExp, one_fieldMul]
    ring_nf
  calc fieldMul (gfExp (k + 1) ^^^ 1#8) (c' ^^^ fieldMul (gfExp n) c)
      = fieldMul (gfExp n ^^^ gfExp k) c ^^^ fieldMul (gfExp (n + 1 + k) ^^^ gfExp n) c := by
        rw [fieldMul_xor, h, ← fieldMul_assoc, hpow]
    _ = fieldMul (gfExp k ^^^ gfExp (n + 1 + k)) c := by rw [← xor_fieldMul, xor_xor_cancel_left]

/-- From the ratio of the coefficients c and c' of degree n, the coefficient of degree n + 1 between them in terms of c'. -/
theorem ratio_step_left {n k : Int} {c c' : Byte}
    (h : fieldMul (gfExp (k + 1) ^^^ 1#8) c' = fieldMul (gfExp n ^^^ gfExp k) c) :
    fieldMul (gfExp (n + 1) ^^^ gfExp (k + 1)) (c' ^^^ fieldMul (gfExp n) c)
      = fieldMul (gfExp (k + 1) ^^^ gfExp (n + 1 + (k + 1))) c' := by
  have hpow : fieldMul (gfExp (n + 1) ^^^ gfExp (k + 1)) (gfExp n) = fieldMul (gfExp (n + 1)) (gfExp n ^^^ gfExp k) := by
    simp only [fieldMul_xor, xor_fieldMul, fieldMul_gfExp_gfExp]
    ring_nf
  have hlast : fieldMul (gfExp (n + 1)) (gfExp (k + 1) ^^^ 1#8) = gfExp (n + 1 + (k + 1)) ^^^ gfExp (n + 1) := by
    rw [fieldMul_xor, fieldMul_gfExp_gfExp, fieldMul_one]
  calc fieldMul (gfExp (n + 1) ^^^ gfExp (k + 1)) (c' ^^^ fieldMul (gfExp n) c)
      = fieldMul (gfExp (n + 1) ^^^ gfExp (k + 1)) c' ^^^ fieldMul (gfExp (n + 1 + (k + 1)) ^^^ gfExp (n + 1)) c' := by
        rw [fieldMul_xor, ← fieldMul_assoc, hpow, fieldMul_assoc, ← h, ← fieldMul_assoc, hlast]
    _ = fieldMul (gfExp (k + 1) ^^^ gfExp (n + 1 + (k + 1))) c' := by rw [← xor_fieldMul, xor_xor_cancel_left]

/-- Coefficient k + 1 of the generator of degree n is (α^n + α^k) / (α^(k+1) + 1) times coefficient k. -/
theorem ratio_genPoly (n k : Nat) : fieldMul (gfExp (k + 1) ^^^ 1#8) ((genPoly n).getD (k + 1) 0#8)
    = fieldMul (gfExp n ^^^ gfExp k) ((genPoly n).getD k 0#8) := by
  induction n generalizing k with
  | zero => cases k <;> simp [genPoly]
  | succ n ih =>
    rw [getD_genPoly_succ_succ, ratio_step_right (ih k), Nat.cast_succ]
    cases k with
    | zero => rw [getD_genPoly_succ_zero, Nat.cast_zero, Int.add_zero, BitVec.xor_comm]
    | succ k => rw [getD_genPoly_succ_succ, Nat.cast_succ, ratio_step_left (ih k)]

/-! ### Which coefficients are zero -/

theorem gfExp_xor_ne_zero {i j : Nat} (hi : i ≤ 254) (hj : j ≤ 254) (hij : i ≠ j) : gfExp i ^^^ gfExp j ≠ 0#8 := by
  intro h
  have hlog := gfLog_gfExp i
  rw [BitVec.xor_eq_zero_iff.1 h, gfLog_gfExp, Option.some_inj] at hlog
  omega

/-- R235(a): the powers of α below 255 are distinct, so no ratio of coefficients is zero. -/
theorem getD_genPoly_ne_zero {n k : Nat} (hn : n ≤ 254) (hk : k ≤ n) : (genPoly n).getD k 0#8 ≠ 0#8 := by
  induction k with
  | zero => simp [getD_genPoly_zero, -List.getD_eq_getElem?_getD]
  | succ k ih =>
    intro h
    have hratio := ratio_genPoly n k
    rw [h, fieldMul_zero] at hratio
    exact fieldMul_ne_zero (gfExp_xor_ne_zero (by omega) (by omega) (by omega)) (ih (by omega)) hratio.symm

theorem zero_notMem_genPoly {n : Nat} (hn : n ≤ 254) : 0#8 ∉ genPoly n := by
  intro h
  obtain ⟨k, hk, hzero⟩ := List.mem_iff_getElem.1 h
  refine getD_genPoly_ne_zero hn (Nat.le_of_lt_succ (length_genPoly n ▸ hk)) ?_
  rw [List.getD_eq_getElem _ _ hk, hzero]

theorem getD_genPoly_succ_eq_zero {n k : Nat} (hk : k < 254)
    (h : fieldMul (gfExp n ^^^ gfExp k) ((genPoly n).getD k 0#8) = 0#8) : (genPoly n).getD (k + 1) 0#8 = 0#8 := by
  have hfactor : gfExp ((k : Int) + 1) ^^^ 1#8 ≠ 0#8 :=
    gfExp_xor_ne_zero (i := k + 1) (j := 0) (by omega) (by omega) (Nat.succ_ne_zero k)
  by_contra hcoeff
  exact fieldMul_ne_zero hfactor hcoeff ((ratio_genPoly n k).trans h)

/-- R235(b): α^255 = α^0 makes the first ratio zero, and with it every coefficient but the first and the last. -/
theorem getD_genPoly_255_eq_zero {k : Nat} (hk : k < 254) : (genPoly 255).getD (k + 1) 0#8 = 0#8 := by
  induction k with
  | zero =>
    have hperiod : gfExp (255 : Nat) ^^^ gfExp (0 : Nat) = 0#8 := rfl
    exact getD_genPoly_succ_eq_zero hk (by rw [hperiod, zero_fieldMul])
  | succ k ih => exact getD_genPoly_succ_eq_zero hk (by rw [ih (by omega), fieldMul_zero])

theorem eq_replicate_of_getD {c : Poly} {m : Nat} {x y : Byte} (hlen : c.length = m + 2) (hfirst : c.getD 0 0#8 = x)
    (hinner : ∀ k < m, c.getD (k + 1) 0#8 = 0#8) (hlast : c.getD (m + 1) 0#8 = y) :
    c = [x] ++ List.replicate m 0#8 ++ [y] := by
  refine List.ext_getElem (by simp [hlen]) fun k hk hk' => ?_
  rw [← List.getD_eq_getElem _ 0#8]
  rcases k with _ | k
  · exact hfirst
  · rcases Nat.lt_or_ge k m with hkm | hkm
    · rw [hinner k hkm]
      simp [hkm]
    · obtain rfl : k = m := by omega
      rw [hlast]
      simp

theorem genPoly_255 : genPoly 255 = [1#8] ++ List.replicate 254 0#8 ++ [1#8] := by
  have hlast : (genPoly 255).getD 255 0#8 = 1#8 := by
    rw [getD_genPoly_self, Nat.choose_two_right]
    rfl
  exact eq_replicate_of_getD (length_genPoly 255) (getD_genPoly_zero 255) (fun _ => getD_genPoly_255_eq_zero) hlast

theorem polyGen_eq_genPoly {n : Nat} (hn : n ≤ 255) : polyGen n = some (genPoly n) := by
  induction n with
  | zero => rfl
  | succ n ih =>
    have he : 0#8 ∉ [1#8, gfExp n] := by
      simpa using (gfExp_ne_zero n).symm
    rw [polyGen, ih (by omega)]
    refine (polyMul_eq_productPoly (genPoly_ne_nil n) (List.cons_ne_nil _ _) (zero_notMem_genPoly (by omega)) he).trans ?_
    rw [productPoly_linear, genPoly]

/-- R235(c): the zero coefficients of poly_gen(255) raise the error, and nothing comes after it. -/
theorem polyGen_eq_none {n : Nat} (hn : 256 ≤ n) : polyGen n = none := by
  induction n, hn using Nat.le_induction with
  | base =>
    rw [polyGen, polyGen_eq_genPoly le_rfl, genPoly_255]
    exact polyMul_eq_none (List.cons_ne_nil _ _)
      (List.mem_append_left _ (List.mem_append_right _ (List.mem_replicate.2 ⟨by decide, rfl⟩)))
  | succ n _ ih => rw [polyGen, ih]

/-- Settles O34: (a) to (c) are the facts about `genPoly` above, and the listed values are evaluated. -/
theorem generatorCoefficients : Obligations.GeneratorCoefficients := by
  refine ⟨fun n hn => ?small, ?full, fun n => polyGen_eq_none, ?values⟩
  case small =>
    exact ⟨_, polyGen_eq_genPoly (by omega), length_genPoly n, head?_genPoly n, zero_notMem_genPoly hn⟩
  case full => rw [polyGen_eq_genPoly le_rfl, genPoly_255]
  case values => decide

end Sys2Proof.Machine
end

section
/-! PROOFS. The polynomial commands (41_poly.md R240 to R244): the word of each, the first failed check and its report, and
the polynomial that a completion writes. -/

namespace Sys2Proof.Machine

/-! ### The words of the commands -/

theorem decode_polyNew_word (p : PolyBuf) (shift : BitVec 9) :
    decode (0x10#8 ++ 0#6 ++ polyBufCode p ++ 0#7 ++ shift) = .ok (.polyNew p shift.toNat) := by
  have hrow : (0x10#8 ++ 0#6 ++ polyBufCode p ++ 0#7 ++ shift) &&& (BitVec.allOnes (8 + 6) ++ 0#2 ++ BitVec.allOnes 7 ++ 0#9)
      = 0x10#8 ++ 0#6 ++ 0#2 ++ 0#7 ++ 0#9 := by
    rw [BitVec.and_append, BitVec.and_append, append_and_mask, BitVec.and_allOnes, BitVec.and_zero]
  have hp : (0x10#8 ++ 0#6 ++ polyBufCode p ++ 0#7 ++ shift).extractLsb' 16 2 = polyBufCode p := by
    rw [BitVec.extractLsb'_append_eq_of_le (by omega), BitVec.extractLsb'_append_eq_of_le (by omega),
      BitVec.extractLsb'_append_eq_right]
  have hfields : (Instr.polyNew p shift.toNat).FieldsIn (0x10#8 ++ 0#6 ++ polyBufCode p ++ 0#7 ++ shift) :=
    ⟨hp, congrArg BitVec.toNat BitVec.extractLsb'_append_eq_right.symm⟩
  exact (decode_eq_ok_iff_matches .polyNew rfl (by decide) (by decide) hfields).2 hrow

theorem decode_polyCopy_word (dst src : PolyBuf) :
    decode (0x11#8 ++ 0#4 ++ polyBufCode src ++ polyBufCode dst ++ 0#16) = .ok (.polyCopy dst src) := by
  cases dst <;> cases src <;> decide

theorem decode_polyGen_word (n : BitVec 9) : decode (0x14#8 ++ 0#15 ++ n) = .ok (.polyGen n.toNat) := by
  refine (decode_eq_ok_iff_matches .polyGen rfl (by decide) (by decide) ?fields).2
    (append_and_mask (0x14#8 ++ 0#15) n)
  case fields => exact congrArg BitVec.toNat BitVec.extractLsb'_append_eq_right.symm

/-! ### Checks and writes -/

/-- A first failed check is the report of R402 and nothing else; where it passes, the next check is the first. -/
theorem complete_report_or {checks : List (Bool × CommandError)} {effect : Except CommandError State} {s : State}
    {failed : Prop} [Decidable failed] {c : ErrCause} {n : Nat} {rest : Option CommandError} {P : Prop}
    (hchecks : firstError checks = if failed then some ⟨c, BitVec.ofNat 32 n⟩ else rest)
    (hpass : ¬failed → firstError checks = rest → P) :
    if failed then complete checks effect s = .next (afterError c n s) else P := by
  split
  next h => exact complete_error (hchecks.trans (if_pos h))
  next h => exact hpass h (hchecks.trans (if_neg h))

theorem ite_some_or {α : Type} (c : Prop) [Decidable c] (e : α) (x y : Option α) :
    (if c then some e else x).or y = if c then some e else x.or y := by
  split <;> rfl

theorem hasZero_eq_true_iff (c : Poly) : hasZero c = true ↔ 0#8 ∈ c := by simp [hasZero]

/-- The checks of read_poly (R236). -/
theorem firstError_readPolyChecks (s : State) (p : PolyBuf) : firstError (readPolyChecks s p)
    = if p = .pa ∧ 256 < s.paLen.toNat then some (capacityError 1)
      else if p = .pb ∧ 256 < s.pbLen.toNat then some (capacityError 2) else none := by
  cases p <;> simp [readPolyChecks, firstError] <;> rfl

/-- The checks of POLY_MUL in the order of R242. -/
theorem firstError_polyMulChecks (s : State) : firstError (polyMulChecks s)
    = if 256 < polyLen s .pa then some (capacityError 1)
      else if 256 < polyLen s .pb then some (capacityError 2)
      else if 0 < polyLen s .pa ∧ 0 < polyLen s .pb ∧ 256 < polyLen s .pa + polyLen s .pb - 1 then some (capacityError 3)
      else if 0 < polyLen s .pa ∧ 0 < polyLen s .pb ∧ (0#8 ∈ readPoly s .pa ∨ 0#8 ∈ readPoly s .pb) then
        some (domainError 2)
      else none := by
  simp only [polyMulChecks, readPolyChecks, List.cons_append, List.nil_append, firstError,
    Bool.and_eq_true, Bool.or_eq_true, decide_eq_true_eq, and_assoc, hasZero_eq_true_iff]
  rfl

/-- The checks of POLY_MOD in the order of R243. -/
theorem firstError_polyModChecks (s : State) : firstError (polyModChecks s)
    = if 256 < polyLen s .pa then some (capacityError 1)
      else if 256 < polyLen s .pb then some (capacityError 2)
      else if polyLen s .pb = 0 then some (domainError 4)
      else if polyLen s .pb ≤ polyLen s .pa ∧ ((readPoly s .pa).headD 0#8 = 0#8 ∨ 0#8 ∈ readPoly s .pb) then
        some (domainError 3)
      else none := by
  simp only [polyModChecks, readPolyChecks, List.cons_append, List.nil_append, firstError,
    Bool.and_eq_true, Bool.or_eq_true, decide_eq_true_eq, beq_iff_eq, hasZero_eq_true_iff]
  rfl

/-- write_poly and the completion, for a polynomial whose length its length register can hold (R237, R332). -/
theorem polyWritten_writePoly (p : PolyBuf) {r : Poly} (s : State) (h : r.length < 512) :
    polyWritten p r s (completeOk (writePoly s p r)) := by
  refine ⟨?length, fun q hq => ?lengths, fun b i => ?bytes, rfl, rfl, ?frame⟩
  case length =>
    show polyLen (setPolyLen _ p r.length) p = _
    rw [polyLen_setPolyLen _ _ _ _ h, if_pos rfl]
  case lengths =>
    show polyLen (setPolyLen _ p r.length) q = _
    rw [polyLen_setPolyLen _ _ _ _ h, if_neg hq]
    cases p <;> cases q <;> rfl
  case bytes => simp [writePoly, readByte_writeBytes, -List.getD_eq_getElem?_getD]
  case frame => cases p <;> rfl

theorem complete_writePoly {checks : List (Bool × CommandError)} {p : PolyBuf} {r : Poly} {s : State}
    (hchecks : firstError checks = none) (hr : r.length < 512) :
    ∃ t, complete checks (.ok (writePoly s p r)) s = .next t ∧ polyWritten p r s t :=
  ⟨_, complete_ok hchecks, polyWritten_writePoly p s hr⟩

theorem polyLen_lt (s : State) (p : PolyBuf) : polyLen s p < 512 := by
  cases p <;> exact BitVec.isLt _

/-! ### POLY_NEW and POLY_COPY -/

/-- The checks of POLY_NEW in the order of R240. -/
theorem firstError_polyNewChecks (s : State) (p : PolyBuf) (n : Nat) :
    firstError (readPolyChecks s p ++ [(decide (Config.polyMax < n), capacityError 8)])
      = if p = .pa ∧ 256 < s.paLen.toNat then some (capacityError 1)
        else if p = .pb ∧ 256 < s.pbLen.toNat then some (capacityError 2)
        else if 256 < n then some (capacityError 8) else none := by
  simp only [firstError_append, firstError_readPolyChecks, ite_some_or, Option.none_or, firstError, decide_eq_true_eq]
  rfl

/-- Settles O29: `complete_report_or` for each check in turn, and then `complete_writePoly`. -/
theorem polyNewNormalisesInPlace : Obligations.PolyNewNormalisesInPlace := by
  refine ⟨decode_polyNew_word, fun p shift s => ?exec⟩
  case exec =>
    rw [exec, execPolyNew]
    refine complete_report_or (firstError_polyNewChecks s p _) fun _ hchecks => ?_
    refine complete_report_or hchecks fun _ hchecks => ?_
    refine complete_report_or hchecks fun hlen hchecks => ?_
    exact complete_writePoly hchecks (by omega)

/-- Settles O30: a length register holds less than 512, so the source's length fits the destination's. -/
theorem polyCopyCopiesTheSource : Obligations.PolyCopyCopiesTheSource := by
  refine ⟨decode_polyCopy_word, fun dst src s => ?exec⟩
  case exec =>
    rw [exec, execPolyCopy]
    refine complete_report_or (firstError_readPolyChecks s src) fun _ hchecks => ?_
    refine complete_report_or hchecks fun _ hchecks => ?_
    exact complete_writePoly hchecks (by simpa using polyLen_lt s src)

/-! ### POLY_MUL, POLY_MOD and POLY_GEN -/

/-- The product of operands that pass R242's checks. -/
theorem exists_polyMul {a b : Poly} (h : ¬(0 < a.length ∧ 0 < b.length ∧ (0#8 ∈ a ∨ 0#8 ∈ b))) :
    ∃ r, polyMul a b = some r ∧ (a.length = 0 ∨ b.length = 0 → r = [])
      ∧ (0 < a.length ∧ 0 < b.length →
          r.length = a.length + b.length - 1 ∧ ∀ k, k < r.length → r.getD k 0#8 = productCoeff a b k) := by
  by_cases hempty : a.length = 0 ∨ b.length = 0
  · refine ⟨[], ?_, fun _ => rfl, fun hpos => by omega⟩
    rw [polyMul, if_pos (by simpa using hempty)]
  · obtain ⟨ha, hb⟩ := not_or.1 hempty
    obtain ⟨hza, hzb⟩ := not_or.1 fun hz => h ⟨Nat.pos_of_ne_zero ha, Nat.pos_of_ne_zero hb, hz⟩
    refine ⟨productPoly a b, ?_, fun h => absurd h hempty, fun _ => ⟨?_, fun k _ => getD_productPoly a b k⟩⟩
    · exact polyMul_eq_productPoly (mt List.length_eq_zero_iff.2 ha) (mt List.length_eq_zero_iff.2 hb) hza hzb
    · rw [length_productPoly]
      omega

/-- Settles O31: the checks in their order, and then the product of `exists_polyMul` is written. -/
theorem polyMulWritesTheProduct : Obligations.PolyMulWritesTheProduct := by
  refine ⟨by decide, fun s => ?exec⟩
  case exec =>
    have hchecks := firstError_polyMulChecks s
    simp only [← length_readPoly] at hchecks
    rw [exec, execPolyMul]
    refine complete_report_or hchecks fun ha hchecks => ?_
    refine complete_report_or hchecks fun hb hchecks => ?_
    refine complete_report_or hchecks fun _ hchecks => ?_
    refine complete_report_or hchecks fun hzero hchecks => ?_
    obtain ⟨r, hr, hempty, hproduct⟩ := exists_polyMul hzero
    have hlen := length_polyMul_le hr
    rw [hr]
    obtain ⟨t, ht, hwritten⟩ := complete_writePoly (p := .pr) (r := r) hchecks (by omega)
    exact ⟨t, r, ht, hwritten, hempty, hproduct⟩

theorem headD_eq_zero_iff {a : Poly} (h : 0 < a.length) : a.headD 0#8 = 0#8 ↔ a.head? = some 0#8 := by
  obtain ⟨x, xs, rfl⟩ := List.exists_cons_of_length_pos h
  simp

/-- The remainder of operands that pass R243's checks. -/
theorem exists_polyMod_of_checks {a b : Poly} (hb : b.length ≠ 0)
    (h : ¬(b.length ≤ a.length ∧ (a.head? = some 0#8 ∨ 0#8 ∈ b))) :
    ∃ r, polyMod a b = some r ∧ (a.length < b.length → r = a)
      ∧ (b.length ≤ a.length → r.head? ≠ some 0#8 ∧ ∃ q, Division a b q r) := by
  by_cases hlen : a.length < b.length
  · exact ⟨a, polyMod_of_length_lt hlen, fun _ => rfl, fun hle => by omega⟩
  · obtain ⟨hhead, hzero⟩ := not_or.1 fun hz => h ⟨Nat.not_lt.1 hlen, hz⟩
    obtain ⟨r, hr, hrest⟩ := exists_polyMod (mt List.length_eq_zero_iff.2 hb) hzero hhead
    exact ⟨r, hr, fun hlt => absurd hlt hlen, fun _ => hrest⟩

/-- Settles O32: the checks in their order, and then the remainder of `exists_polyMod_of_checks` is written. -/
theorem polyModWritesTheRemainder : Obligations.PolyModWritesTheRemainder := by
  refine ⟨by decide, fun s => ?exec⟩
  case exec =>
    have hchecks := firstError_polyModChecks s
    simp only [← length_readPoly] at hchecks
    rw [exec, execPolyMod]
    refine complete_report_or hchecks fun ha hchecks => ?_
    refine complete_report_or hchecks fun _ hchecks => ?_
    refine complete_report_or hchecks fun hb hchecks => ?_
    rw [if_congr (and_congr_right fun hle => or_congr_left (headD_eq_zero_iff (by omega))) rfl rfl] at hchecks
    refine complete_report_or hchecks fun hzero hchecks => ?_
    obtain ⟨r, hr, hshort, hlong⟩ := exists_polyMod_of_checks hb hzero
    have hlen := length_polyMod hr
    rw [hr]
    obtain ⟨t, ht, hwritten⟩ := complete_writePoly (p := .pr) (r := r) hchecks (by omega)
    refine ⟨t, r, ht, hwritten, hshort, fun hle => ?_⟩
    obtain ⟨hhead, q, hq⟩ := hlong hle
    exact ⟨hlen.1, hhead, q, by rw [hq.length_quotient, Nat.succ_sub hle], fun k _ => hq.coeff k⟩

/-- Settles O33: the polynomial written is `genPoly n`, whose roots are those of its factors. -/
theorem polyGenWritesTheGenerator : Obligations.PolyGenWritesTheGenerator := by
  refine ⟨decode_polyGen_word, fun n s => ?exec⟩
  case exec =>
    have hchecks : firstError [(decide (255 < n), capacityError 9)] = if 255 < n then some (capacityError 9) else none := by
      simp only [firstError, decide_eq_true_eq]
    rw [exec, execPolyGen]
    refine complete_report_or hchecks fun hn hchecks => ?_
    have hgen := polyGen_eq_genPoly (Nat.not_lt.1 hn)
    rw [hgen]
    have hlen : (genPoly n).length < 512 := by
      rw [length_genPoly]
      omega
    obtain ⟨t, ht, hwritten⟩ := complete_writePoly (p := .pr) (s := s) hchecks hlen
    refine ⟨t, genPoly n, ht, rfl, hwritten, length_genPoly n, head?_genPoly n, fun i hi => ?_⟩
    have hexp : expEntry i = gfExp i := by rw [gfExp_natCast, Nat.mod_eq_of_lt (by omega)]
    rw [hexp, evalPoly_genPoly hi]

end Sys2Proof.Machine
end

section
/-! PROOFS. The error-correction codewords of a block (42_rs.md R262): a root of the generator is a root of the message
polynomial less its remainder, and the remainder comes without DOMAIN_ERROR for every block of a layout (R269). -/

namespace Sys2Proof.Machine

/-! ### The value of a polynomial under the steps of a division -/

/-- What stands before a polynomial's coefficients counts as if zeros stood in their place. -/
theorem evalFrom_xor (y acc acc' : Byte) (c : Poly) :
    evalFrom y (acc ^^^ acc') c = evalFrom y acc c ^^^ evalFrom y acc' (List.replicate c.length 0#8) := by
  induction c generalizing acc acc' with
  | nil => rfl
  | cons x xs ih =>
    have hstep : fieldMul (acc ^^^ acc') y ^^^ x = (fieldMul acc y ^^^ x) ^^^ (fieldMul acc' y ^^^ 0#8) := by
      rw [xor_fieldMul, BitVec.xor_zero]
      ac_rfl
    rw [evalFrom_cons, hstep, ih, evalFrom_cons, List.length_cons, List.replicate_succ, evalFrom_cons]

/-- XORing in a row that has the value 0 at y leaves the value at y (R232). -/
theorem evalFrom_xorFront {y acc acc' : Byte} {a row : Poly} (hlen : row.length ≤ a.length)
    (hroot : evalFrom y acc' row = 0#8) : evalFrom y (acc ^^^ acc') (xorFront a row) = evalFrom y acc a := by
  induction row generalizing acc acc' a with
  | nil =>
    obtain rfl : acc' = 0#8 := hroot
    cases a <;> simp [xorFront]
  | cons z zs ih =>
    obtain ⟨x, xs, rfl⟩ := List.exists_cons_of_length_pos (Nat.lt_of_lt_of_le (Nat.succ_pos _) hlen)
    have hstep : fieldMul (acc ^^^ acc') y ^^^ (x ^^^ z) = (fieldMul acc y ^^^ x) ^^^ (fieldMul acc' y ^^^ z) := by
      rw [xor_fieldMul]
      ac_rfl
    rw [xorFront, evalFrom_cons, hstep, evalFrom_cons]
    exact ih (by simpa using hlen) hroot

theorem evalFrom_map_fieldMul (y c acc : Byte) (b : Poly) :
    evalFrom y (fieldMul c acc) (b.map (fieldMul c)) = fieldMul c (evalFrom y acc b) := by
  induction b generalizing acc with
  | nil => rfl
  | cons x xs ih => rw [List.map_cons, evalFrom_cons, fieldMul_assoc, ← fieldMul_xor, ih, evalFrom_cons]

theorem evalPoly_map_fieldMul (y c : Byte) (b : Poly) : evalPoly (b.map (fieldMul c)) y = fieldMul c (evalPoly b y) := by
  simpa [evalPoly_eq_evalFrom] using evalFrom_map_fieldMul y c 0#8 b

/-- Leading zeros do not count. -/
theorem evalPoly_normalize_zero (c : Poly) (y : Byte) : evalPoly (normalize c 0) y = evalPoly c y := by
  induction c with
  | nil => rfl
  | cons x xs ih =>
    by_cases hx : x = 0#8
    · subst hx
      rw [normalize_zero_cons, ih, evalPoly_eq_evalFrom (0#8 :: xs), evalFrom_cons, zero_fieldMul]
      rfl
    · rw [normalize_of_head_ne_zero hx]

theorem evalPoly_append (c d : Poly) (y : Byte) : evalPoly (c ++ d) y = evalFrom y (evalPoly c y) d := List.foldl_append

theorem evalPoly_zeros_append (k : Nat) (c : Poly) (y : Byte) :
    evalPoly (List.replicate k 0#8 ++ c) y = evalPoly c y := by
  rw [← evalPoly_normalize_zero, ← evalPoly_normalize_zero c]
  simp [normalize]

theorem evalPoly_normalize (c : Poly) (n : Nat) (y : Byte) :
    evalPoly (normalize c n) y = evalFrom y (evalPoly c y) (List.replicate n 0#8) := by
  have hsplit : normalize c n = normalize c 0 ++ List.replicate n 0#8 := by simp [normalize]
  rw [hsplit, evalPoly_append, evalPoly_normalize_zero]

/-! ### Remainders -/

/-- A row is the multiple of the divisor that its leading coefficient asks for (R232). -/
theorem scaleExp_eq_some {e : Int} {b row : Poly} (h : scaleExp e b = some row) : row = b.map (fieldMul (gfExp e)) := by
  have hb : 0#8 ∉ b := by
    intro hmem
    induction b generalizing row with
    | nil => cases hmem
    | cons c cs ih =>
      rw [scaleExp] at h
      split at h
      next hc hcs =>
        rcases List.mem_cons.1 hmem with rfl | hmem
        · cases hc
        · exact ih hcs hmem
      next => contradiction
  rw [scaleExp_eq_map hb] at h
  exact (Option.some_inj.1 h).symm

/-- A pass subtracts a multiple of the divisor, so the value at a root of the divisor stays (R232). -/
theorem evalPoly_polyModLoop {fuel : Nat} {a b r : Poly} {y : Byte} (hroot : evalPoly b y = 0#8)
    (h : polyModLoop fuel a b = some r) : evalPoly r y = evalPoly a y := by
  induction fuel generalizing a with
  | zero =>
    cases h
    rfl
  | succ fuel ih =>
    rw [polyModLoop] at h
    split at h
    next =>
      cases h
      rfl
    next hlong =>
      split at h
      next la lb _ _ =>
        split at h
        next row hrow =>
          obtain rfl := scaleExp_eq_some hrow
          have hzero : evalPoly (b.map (fieldMul (gfExp ((la : Int) - (lb : Int))))) y = 0#8 := by
            rw [evalPoly_map_fieldMul, hroot, fieldMul_zero]
          rw [ih h, evalPoly_normalize_zero]
          exact evalFrom_xorFront (acc := 0#8) (by simpa using hlong) hzero
        next => contradiction
      next => contradiction

/-- Dividend and remainder agree at the roots of the divisor (R232). -/
theorem evalPoly_polyMod {a b r : Poly} {y : Byte} (hroot : evalPoly b y = 0#8) (h : polyMod a b = some r) :
    evalPoly r y = evalPoly a y := by
  rw [polyMod] at h
  split at h
  · contradiction
  · exact evalPoly_polyModLoop hroot h

/-! ### The codewords -/

theorem polyGen_eq_some {n : Nat} {g : Poly} (h : polyGen n = some g) : n ≤ 255 ∧ g = genPoly n := by
  by_cases hn : n ≤ 255
  · rw [polyGen_eq_genPoly hn] at h
    exact ⟨hn, (Option.some_inj.1 h).symm⟩
  · rw [polyGen_eq_none (by omega)] at h
    contradiction

/-- The codewords are the remainder by the generator with zeros before it (R262, C1). -/
theorem ecBytes_eq_some {data e : List Byte} {n : Nat} (h : ecBytes data n = some e) : n ≤ 255
    ∧ ∃ r, polyMod (normalize data n) (genPoly n) = some r ∧ e = List.replicate (n - r.length) 0#8 ++ r := by
  rw [ecBytes] at h
  split at h
  · contradiction
  · next hg =>
    obtain ⟨hn, rfl⟩ := polyGen_eq_some hg
    split at h
    · cases h
      exact ⟨hn, _, ‹_›, rfl⟩
    · contradiction

/-- Settles O39: at a root of the generator the codewords have the value of the shifted message, so the two sum to 0. -/
theorem ecBytesMakeACodeword : Obligations.EcBytesMakeACodeword := by
  intro data n e h
  have hlen := length_ecBytes h
  refine ⟨hlen, fun i hi => ?_⟩
  obtain ⟨hn, r, hr, rfl⟩ := ecBytes_eq_some h
  have hexp : expEntry i = gfExp i := by rw [gfExp_natCast, Nat.mod_eq_of_lt (by omega)]
  have hremainder := evalPoly_polyMod (evalPoly_genPoly hi) hr
  rw [hexp, evalPoly_append, ← BitVec.zero_xor (x := evalPoly data _), evalFrom_xor, hlen, ← evalPoly_eq_evalFrom,
    evalPoly_zeros_append, hremainder, evalPoly_normalize, BitVec.xor_self]

/-- R269: the codewords of a block exist, since its data and its n are not more than 255 together: a generator with a zero
coefficient has n = 255, and then the message is shorter than it. -/
theorem exists_ecBytes {data : List Byte} {n : Nat} (h : data.length + n ≤ 255) : ∃ e, ecBytes data n = some e := by
  have hremainder : ∃ r, polyMod (normalize data n) (genPoly n) = some r := by
    have hmessage := length_normalize_le data n
    by_cases hshort : (normalize data n).length < (genPoly n).length
    · exact ⟨_, polyMod_of_length_lt hshort⟩
    · rw [length_genPoly] at hshort
      have hhead : (normalize data n).head? ≠ some 0#8 := by
        intro hzero
        obtain ⟨x, hx, hne⟩ : ∃ x ∈ data, x ≠ 0#8 := by simpa [normalize] using hshort
        exact hne (((head?_normalize_eq_zero_iff data n).1 hzero).1 x hx)
      obtain ⟨r, hr, -⟩ := exists_polyMod (genPoly_ne_nil n) (zero_notMem_genPoly (by omega)) hhead
      exact ⟨r, hr⟩
  obtain ⟨r, hr⟩ := hremainder
  exact ⟨List.replicate (n - r.length) 0#8 ++ r, by simp only [ecBytes, polyGen_eq_genPoly (n := n) (by omega), hr]⟩

end Sys2Proof.Machine
end

section
/-! PROOFS. The interleaved stream, round by round (42_rs.md R263). -/

namespace Sys2Proof.Machine

/-- A round has one element of every sequence long enough. -/
theorem length_interleaveRound (seqs : List (List Byte)) (i : Nat) :
    (interleaveRound seqs i).length = (seqs.filter (fun q => decide (i < q.length))).length := by
  induction seqs with
  | nil => rfl
  | cons q qs ih =>
    by_cases hi : i < q.length <;> simp [length_interleaveRound_cons, ih, hi, Nat.add_comm]

/-- In a round an element stands after those of the sequences before its own. -/
theorem interleaveRound_getElem? {seqs : List (List Byte)} {b i : Nat} {q : List Byte} {v : Byte}
    (hq : seqs[b]? = some q) (hv : q[i]? = some v) :
    (interleaveRound seqs i)[((seqs.take b).filter (fun q => decide (i < q.length))).length]? = some v := by
  have hround : interleaveRound seqs i
      = interleaveRound (seqs.take b) i ++ v :: interleaveRound (seqs.drop (b + 1)) i := by
    obtain ⟨hb, rfl⟩ := List.getElem?_eq_some_iff.1 hq
    have hsplit : seqs = seqs.take b ++ seqs[b] :: seqs.drop (b + 1) := by
      rw [← List.drop_eq_getElem_cons hb, List.take_append_drop]
    rw [congrArg (interleaveRound · i) hsplit, interleaveRound, List.filterMap_append,
      List.filterMap_cons_some (f := fun q => q[i]?) hv, interleaveRound, interleaveRound]
  rw [hround, ← length_interleaveRound, List.getElem?_append_right le_rfl, Nat.sub_self, List.getElem?_cons_zero]

/-- An element of one of the first m rounds stands after the rounds before its own. -/
theorem flatMap_range_getElem? (f : Nat → List Byte) {m i j : Nat} {v : Byte} (hi : i < m) (hv : (f i)[j]? = some v) :
    ((List.range m).flatMap f)[((List.range i).map (fun r => (f r).length)).sum + j]? = some v := by
  obtain ⟨k, rfl⟩ := Nat.exists_eq_add_of_lt hi
  obtain ⟨hj, -⟩ := List.getElem?_eq_some_iff.1 hv
  rw [Nat.add_assoc, List.range_add, List.flatMap_append, ← List.length_flatMap, List.getElem?_append_right (by omega),
    Nat.add_sub_cancel_left, List.range_succ_eq_map, List.map_cons, List.flatMap_cons, Nat.add_zero,
    List.getElem?_append_left hj, hv]

theorem length_le_maxLength {seqs : List (List Byte)} {q : List Byte} (hq : q ∈ seqs) : q.length ≤ maxLength seqs := by
  rw [maxLength, List.foldl_max]
  exact le_max_of_le_right (List.le_max?_getD_of_mem (List.mem_map_of_mem hq))

/-- All rounds together have every element of every sequence (R263). -/
theorem length_interleaveRounds (seqs : List (List Byte)) :
    (interleaveRounds seqs).length = (seqs.map List.length).sum := by
  rw [interleaveRounds, length_rounds]
  exact congrArg List.sum (List.map_congr_left fun q hq => Nat.min_eq_right (length_le_maxLength hq))

theorem interleaveRounds_getElem? {seqs : List (List Byte)} {b i : Nat} {q : List Byte} {v : Byte}
    (hq : seqs[b]? = some q) (hv : q[i]? = some v) : (interleaveRounds seqs)[roundPosition seqs i b]? = some v := by
  obtain ⟨hi, -⟩ := List.getElem?_eq_some_iff.1 hv
  have hrounds := hi.trans_le (length_le_maxLength (List.mem_of_getElem? hq))
  simpa only [interleaveRounds, roundPosition, length_interleaveRound] using
    flatMap_range_getElem? (interleaveRound seqs) hrounds (interleaveRound_getElem? hq hv)

theorem length_interleave (d e : List (List Byte)) :
    (interleave d e).length = (d.map List.length).sum + (e.map List.length).sum := by
  rw [interleave, List.length_append, length_interleaveRounds, length_interleaveRounds]

/-- Settles O40: `interleaveRounds_getElem?` for the data, and again after all data for the error-correction codewords. -/
theorem interleaveIsRoundByRound : Obligations.InterleaveIsRoundByRound := by
  refine fun d e => ⟨length_interleave d e, fun b i q v hq hv => ?data, fun b i q v hq hv => ?ec⟩
  case data =>
    have hv := interleaveRounds_getElem? hq hv
    rwa [interleave, List.getElem?_append_left (List.getElem?_eq_some_iff.1 hv).1]
  case ec =>
    rw [interleave, ← length_interleaveRounds, List.getElem?_append_right (Nat.le_add_right _ _), Nat.add_sub_cancel_left]
    exact interleaveRounds_getElem? hq hv

end Sys2Proof.Machine
end

section
/-! PROOFS. The layout check that every RS command makes first (42_rs.md R261). -/

namespace Sys2Proof.Machine

/-! The layout is the GROUP registers alone. -/

theorem totalData_congr {s u : State} (h : u.groups = s.groups) : totalData u = totalData s := by
  rw [totalData, h, totalData]

theorem totalCw_congr {s u : State} (h : u.groups = s.groups) : totalCw u = totalCw s := by
  rw [totalCw, h, totalCw]

theorem layoutFault_congr {s u : State} (h : u.groups = s.groups) : layoutFault u = layoutFault s := by
  unfold layoutFault nBlocks totalData
  rw [h]

theorem groupBad_eq (g : Group) : groupBad g = decide (0 < g.count.toNat ∧ g.total.toNat < g.data.toNat) :=
  (Bool.decide_and _ _).symm

/-- layout_check reports the first fault of the layout (R261, R403). -/
theorem firstError_layoutChecks (s : State) :
    firstError (layoutChecks s) = (layoutFault s).map fun f => ⟨f.1, BitVec.ofNat 32 f.2⟩ := by
  simp only [layoutChecks, firstError, layoutFault, groups_toList, List.findIdx?_cons, List.findIdx?_nil, ← groupBad_eq,
    beq_iff_eq, decide_eq_true_eq]
  by_cases hblocks : nBlocks s = 0
  · simp [hblocks, configError]
  by_cases h0 : groupBad s.groups[0] = true
  · simp [hblocks, h0, configError]
  by_cases h1 : groupBad s.groups[1] = true
  · simp [hblocks, h0, h1, configError]
  by_cases h2 : groupBad s.groups[2] = true
  · simp [hblocks, h0, h1, h2, configError]
  by_cases h3 : groupBad s.groups[3] = true
  · simp [hblocks, h0, h1, h2, h3, configError]
  by_cases hcount : 128 < nBlocks s
  · simp [hblocks, h0, h1, h2, h3, hcount, Config.maxBlocks, capacityError]
  by_cases hdata : 4096 < totalData s
  · simp [hblocks, h0, h1, h2, h3, hcount, hdata, Config.maxBlocks, Config.dataBufBytes, capacityError]
  · simp [hblocks, h0, h1, h2, h3, hcount, hdata, Config.maxBlocks, Config.dataBufBytes]

/-- A layout fault is the report of R402 and nothing else. -/
theorem complete_layoutFault {s : State} {f : ErrCause × Nat} (h : layoutFault s = some f)
    (checks : List (Bool × CommandError)) (effect : Except CommandError State) :
    complete (layoutChecks s ++ checks) effect s = .next (afterError f.1 f.2 s) :=
  complete_error (e := ⟨f.1, BitVec.ofNat 32 f.2⟩) (by rw [firstError_append, firstError_layoutChecks, h]; rfl)

/-- Over a faultless layout a command's own checks decide. -/
theorem firstError_layoutChecks_append {s : State} (h : layoutFault s = none) (checks : List (Bool × CommandError)) :
    firstError (layoutChecks s ++ checks) = firstError checks := by
  rw [firstError_append, firstError_layoutChecks, h]
  rfl

theorem layoutFault_eq_none_of_checks {s : State} {checks : List (Bool × CommandError)}
    (h : firstError (layoutChecks s ++ checks) = none) : layoutFault s = none := by
  rw [firstError_append, Option.or_eq_none_iff, firstError_layoutChecks, Option.map_eq_none_iff] at h
  exact h.1

theorem layoutFits_of_layoutFault {s : State} (h : layoutFault s = none) : LayoutFits s :=
  layoutFits_of_layoutChecks (by rw [firstError_layoutChecks, h]; rfl)

end Sys2Proof.Machine
end

section
/-! PROOFS. RS_FINALIZE (42_rs.md R264): the bits of the finalized data codewords, and what the completion writes. -/

namespace Sys2Proof.Machine

/-! ### The bits of the finalized stream -/

theorem getLsbD_byteOfBits (b7 b6 b5 b4 b3 b2 b1 b0 : Bool) {k : Nat} (hk : k < 8) :
    (byteOfBits b7 b6 b5 b4 b3 b2 b1 b0).getLsbD (7 - k) = [b7, b6, b5, b4, b3, b2, b1, b0].getD k false := by
  interval_cases k <;> revert b7 b6 b5 b4 b3 b2 b1 b0 <;> decide

/-- Bit k of the packed bytes, most significant first, is bit k of the stream (R105). -/
theorem getLsbD_packBytes {bits : List Bool} {k : Nat} (hk : k < 8 * (packBytes bits).length) :
    ((packBytes bits).getD (k / 8) 0#8).getLsbD (7 - k % 8) = bits.getD k false := by
  induction bits using packBytes.induct generalizing k with
  | case1 b7 b6 b5 b4 b3 b2 b1 b0 rest ih =>
    rw [packBytes, List.length_cons] at hk
    rw [packBytes]
    by_cases hfirst : k < 8
    · rw [Nat.div_eq_of_lt hfirst, Nat.mod_eq_of_lt hfirst, List.getD_cons_zero, getLsbD_byteOfBits _ _ _ _ _ _ _ _ hfirst]
      exact (List.getD_append [b7, b6, b5, b4, b3, b2, b1, b0] rest false k hfirst).symm
    · obtain ⟨j, rfl⟩ := Nat.exists_eq_add_of_le (Nat.not_lt.1 hfirst)
      rw [Nat.add_div_left _ (by omega), Nat.add_mod_left, List.getD_cons_succ, ih (by omega)]
      simp [Nat.add_comm 8 j]
  | case2 bits h => simp [packBytes] at hk

theorem getD_byteBits (v : Byte) {k : Nat} (hk : k < 8) : (byteBits v).getD k false = v.getLsbD (7 - k) := by
  simp [byteBits, hk]

theorem getD_flatMap_byteBits (vs : List Byte) (k : Nat) :
    (vs.flatMap byteBits).getD k false = (vs.getD (k / 8) 0#8).getLsbD (7 - k % 8) := by
  induction vs generalizing k with
  | nil => simp
  | cons v vs ih =>
    rw [List.flatMap_cons]
    by_cases hfirst : k < 8
    · rw [List.getD_append _ _ _ _ (by simpa using hfirst), getD_byteBits v hfirst, Nat.div_eq_of_lt hfirst,
        Nat.mod_eq_of_lt hfirst, List.getD_cons_zero]
    · obtain ⟨j, rfl⟩ := Nat.exists_eq_add_of_le (Nat.not_lt.1 hfirst)
      rw [List.getD_append_right _ _ _ _ (by simp), length_byteBits, Nat.add_sub_cancel_left, ih,
        Nat.add_div_left _ (by omega), Nat.add_mod_left, List.getD_cons_succ]

theorem getD_append_zeros (bits : List Bool) (m k : Nat) :
    (bits ++ List.replicate m false).getD k false = bits.getD k false := by
  by_cases hk : k < bits.length
  · exact List.getD_append _ _ _ _ hk
  · rw [List.getD_append_right _ _ _ _ (by omega), List.getD_eq_default bits _ (by omega)]
    simp

/-- Terminator and byte fill are zero bits (R264(b), (c)). -/
theorem getD_filled (capBits : Nat) (bits : List Bool) (k : Nat) :
    (toByteBoundary (withTerminator capBits bits)).getD k false = bits.getD k false := by
  rw [toByteBoundary, getD_append_zeros, withTerminator]
  split
  · exact getD_append_zeros bits 4 k
  · rfl

theorem length_filled (capBits : Nat) (bits : List Bool) : (toByteBoundary (withTerminator capBits bits)).length
    = 8 * ((bits.length + (if 4 ≤ capBits - bits.length then 4 else 0) + 7) / 8) := by
  rw [length_toByteBoundary, withTerminator]
  split <;> simp

/-- After the filled stream come the pad codewords, 0xEC first (R264(d)). -/
theorem getD_withPads {capBits k : Nat} {bits : List Bool} (hbits : bits.length % 8 = 0) (hcap : capBits % 8 = 0)
    (hk : k < capBits) : (withPads capBits bits).getD k false = if k < bits.length then bits.getD k false
      else (if ((k - bits.length) / 8) % 2 = 0 then 0xEC#8 else 0x11#8).getLsbD (7 - k % 8) := by
  rw [withPads]
  split
  next h => exact List.getD_append _ _ _ _ h
  next h =>
    have hpad : (k - bits.length) / 8 < (capBits - bits.length) / 8 := by omega
    have hmod : (k - bits.length) % 8 = k % 8 := by omega
    rw [List.getD_append_right _ _ _ _ (by omega), getD_flatMap_byteBits, hmod]
    simp [padCodewords, hpad]

theorem getD_dataStream (s : State) (k : Nat) :
    (dataStream s).getD k false = if k < s.dataLenBits.toNat then dataBit s k else false := by
  by_cases hk : k < s.dataLenBits.toNat <;> simp [dataStream, streamBits, hk]

theorem length_finalBytes_dataStream {s : State} (hfit : s.dataLenBits.toNat ≤ 8 * totalData s) :
    (finalBytes (totalData s) (dataStream s)).length = totalData s :=
  length_finalBytes (by simpa [streamBits] using hfit)

/-- The bits of the bytes RS_FINALIZE writes (R264). -/
theorem getLsbD_finalBytes {s : State} {k : Nat} (hfit : s.dataLenBits.toNat ≤ 8 * totalData s)
    (hk : k < 8 * totalData s) :
    ((finalBytes (totalData s) (dataStream s)).getD (k / 8) 0#8).getLsbD (7 - k % 8) = finalizedBit s k := by
  have hlen := length_finalBytes_dataStream hfit
  have hfilled := length_filled (8 * totalData s) (dataStream s)
  rw [length_dataStream, streamBits] at hfilled
  rw [finalBytes] at hlen ⊢
  rw [getLsbD_packBytes (by omega), getD_withPads (by omega) (by omega) hk, getD_filled, getD_dataStream, hfilled]
  simp only [finalizedBit]
  by_cases hstream : k < s.dataLenBits.toNat
  · rw [if_pos (by omega), if_pos hstream, if_pos hstream]
  · rw [if_neg hstream, if_neg hstream]

/-! ### What the completion writes -/

theorem readByte_finalizeBody (s : State) (b : Buf) (i : Nat) : readByte (finalizeBody s) b i
    = if b = .data ∧ i < (finalBytes (totalData s) (dataStream s)).length then
        (finalBytes (totalData s) (dataStream s)).getD i 0#8
      else readByte s b i := by
  have hbody : readByte (finalizeBody s) b i
      = readByte (writeBytes s .data 0 (finalBytes (totalData s) (dataStream s))) b i := by
    cases b <;> rfl
  rw [hbody, readByte_writeBytes]
  simp only [Nat.zero_le, true_and, Nat.zero_add, Nat.sub_zero]

/-- What RS_FINALIZE can write: Buf(DATA), DATA_LEN_BITS and STATUS.ECV (R264). -/
theorem finalizeBody_frame (s : State) : ∃ m, finalizeBody s
    = { s with data := m, dataLenBits := BitVec.ofNat 16 (8 * totalData s), ecv := false } := ⟨_, rfl⟩

theorem dataBit_finalizeBody {s : State} {k : Nat} (hfit : s.dataLenBits.toNat ≤ 8 * totalData s)
    (hk : k < 8 * totalData s) : dataBit (finalizeBody s) k = finalizedBit s k := by
  rw [dataBit, readByte_finalizeBody, length_finalBytes_dataStream hfit, if_pos ⟨rfl, by omega⟩,
    getLsbD_finalBytes hfit hk]

/-- 8 T does not wrap in DATA_LEN_BITS over a faultless layout (R261). -/
theorem toNat_dataLenBits_finalizeBody {s : State} (hlayout : layoutFault s = none) :
    (finalizeBody s).dataLenBits.toNat = 8 * totalData s := by
  have hdata : totalData s ≤ 4096 := (layoutFits_of_layoutFault hlayout).totalData_le
  exact (BitVec.toNat_ofNat _ 16).trans (Nat.mod_eq_of_lt (by omega))

/-- The checks of RS_FINALIZE after those of the layout, in the order of R264. -/
theorem firstError_rsFinalizeChecks (s : State) :
    firstError [(streamTooLong s, capacityError 4), (streamOverflows s, encodingOverflow (streamBits s))]
      = if 32768 < s.dataLenBits.toNat then some (capacityError 4)
        else if 8 * totalData s < s.dataLenBits.toNat then some (encodingOverflow s.dataLenBits.toNat)
        else none := by
  simp only [firstError, streamTooLong, streamOverflows, decide_eq_true_eq]
  rfl

/-- Settles O36: each check in turn, and then the bits are those of `getLsbD_finalBytes`. -/
theorem rsFinalizeCompletesTheData : Obligations.RsFinalizeCompletesTheData := by
  refine ⟨by decide, fun s => ?exec⟩
  case exec =>
    rw [exec, execRsFinalize]
    cases hlayout : layoutFault s with
    | some f => exact complete_layoutFault hlayout _ _
    | none =>
      have hchecks := (firstError_layoutChecks_append hlayout _).trans (firstError_rsFinalizeChecks s)
      refine complete_report_or hchecks fun _ hchecks => ?_
      refine complete_report_or hchecks fun hfit hchecks => ?_
      have hfit := Nat.not_lt.1 hfit
      refine ⟨_, complete_ok hchecks, fun k hk => ?bits, fun b i hbi => ?bytes, toNat_dataLenBits_finalizeBody hlayout, rfl,
        rfl, rfl, ?frame⟩
      case bits =>
        rw [dataBit, readByte_completeOk]
        exact dataBit_finalizeBody hfit hk
      case frame =>
        obtain ⟨m, hm⟩ := finalizeBody_frame s
        rw [hm]
        rfl
      case bytes =>
        rw [readByte_completeOk, readByte_finalizeBody, length_finalBytes_dataStream hfit, if_neg]
        exact fun ⟨hb, hi⟩ => hbi.elim (absurd hb) (Nat.not_le.2 hi)

/-! ### Applied twice -/

/-- RS_FINALIZE over a faultless layout that the stream fits (R264). -/
theorem exec_rsFinalize_ok {s : State} (hlayout : layoutFault s = none) (hfit : s.dataLenBits.toNat ≤ 8 * totalData s) :
    exec .rsFinalize s = .next (completeOk (finalizeBody s)) := by
  have hdata : totalData s ≤ 4096 := (layoutFits_of_layoutFault hlayout).totalData_le
  refine complete_ok ?_
  rw [firstError_layoutChecks_append hlayout, firstError_rsFinalizeChecks, if_neg (by omega), if_neg (by omega)]

/-- An RS_FINALIZE that records no error has passed its checks. -/
theorem rsFinalize_completed {s t : State} (h : exec .rsFinalize s = .next t) (hok : t.cmdErrors = s.cmdErrors) :
    layoutFault s = none ∧ s.dataLenBits.toNat ≤ 8 * totalData s ∧ t = completeOk (finalizeBody s) := by
  rw [exec, execRsFinalize] at h
  rcases complete_cases h with ⟨e, -, rfl⟩ | ⟨-, e, -, rfl⟩ | ⟨hchecks, u, hu, rfl⟩
  · exact absurd hok (List.cons_ne_self _ _)
  · exact absurd hok (List.cons_ne_self _ _)
  · cases hu
    obtain ⟨-, hown⟩ := layoutFits_of_checks hchecks
    simp only [List.forall_mem_cons] at hown
    obtain ⟨-, hoverflow, -⟩ := hown
    exact ⟨layoutFault_eq_none_of_checks hchecks, Nat.not_lt.1 (of_decide_eq_false hoverflow), rfl⟩

/-- A stream that fills the data codewords leaves nothing to complete (R264). -/
theorem readByte_finalizeBody_of_full {s : State} (hfull : s.dataLenBits.toNat = 8 * totalData s) (b : Buf) (i : Nat) :
    readByte (finalizeBody s) b i = readByte s b i := by
  rw [readByte_finalizeBody, length_finalBytes_dataStream hfull.le]
  split
  next h =>
    obtain ⟨rfl, hi⟩ := h
    refine BitVec.eq_of_getLsbD_eq fun j hj => ?_
    obtain ⟨k, hbyte, hbit⟩ : ∃ k, k / 8 = i ∧ 7 - k % 8 = j := ⟨8 * i + (7 - j), by omega, by omega⟩
    have h := getLsbD_finalBytes (s := s) (k := k) hfull.le (by omega)
    rw [hbyte, hbit] at h
    rw [h, finalizedBit, if_pos (by omega), dataBit, hbyte, hbit]
  next => rfl

/-- Settles O37: after the first time the stream fills the data codewords. -/
theorem rsFinalizeTwiceIsOnce : Obligations.RsFinalizeTwiceIsOnce := by
  intro s t h hok
  obtain ⟨hlayout, -, ht⟩ := rsFinalize_completed h hok
  have hgroups : t.groups = s.groups := by rw [ht, completeOk_groups, finalizeBody_groups]
  have hfull : t.dataLenBits.toNat = 8 * totalData t := by
    rw [ht, completeOk_dataLenBits, toNat_dataLenBits_finalizeBody hlayout]
    rfl
  refine ⟨_, exec_rsFinalize_ok ((layoutFault_congr hgroups).trans hlayout) hfull.le, fun b i => ?bytes, ?frame⟩
  case bytes => rw [readByte_completeOk, readByte_finalizeBody_of_full hfull]
  case frame =>
    obtain ⟨m, hm⟩ := finalizeBody_frame s
    obtain ⟨m', hm'⟩ := finalizeBody_frame t
    rw [hm', ht, hm]
    rfl

end Sys2Proof.Machine
end

section
/-! PROOFS. RS_BLOCKS (42_rs.md R265): the blocks' data and error-correction codewords as the statements name them, and the
EC store after the command. -/

namespace Sys2Proof.Machine

/-! ### The codewords of the blocks -/

theorem dataSeqsFrom_getElem? (s : State) (off : Nat) (bs : List Block) (b : Nat) : (dataSeqsFrom s off bs)[b]?
    = bs[b]?.map fun k => readBytes s .data (off + ((bs.take b).map Block.d).sum) k.d := by
  induction bs generalizing off b with
  | nil => simp [dataSeqsFrom]
  | cons k bs ih =>
    cases b with
    | zero => simp [dataSeqsFrom]
    | succ b => simp [dataSeqsFrom, ih, Nat.add_assoc]

theorem ecSeqsFrom_getElem? (s : State) (start : Nat) (bs : List Block) (b : Nat) : (ecSeqsFrom s start bs)[b]?
    = bs[b]?.map fun k => readBytes s .ec (256 * (start + b)) k.n := by
  induction bs generalizing start b with
  | nil => simp [ecSeqsFrom]
  | cons k bs ih =>
    cases b with
    | zero => simp [ecSeqsFrom, Config.ecStride]
    | succ b => simp [ecSeqsFrom, ih, Nat.add_assoc, Nat.add_comm 1 b]

theorem eq_map_range_of_getElem? {seqs : List (List Byte)} {n : Nat} {f : Nat → List Byte} (hlen : seqs.length = n)
    (h : ∀ b < n, seqs[b]? = some (f b)) : seqs = (List.range n).map f := by
  refine List.ext_getElem? fun b => ?_
  by_cases hb : b < n
  · simp [h b hb, hb]
  · simp [hb, hlen]

theorem exists_blocks_getElem? {s : State} {b : Nat} (hb : b < nBlocks s) : ∃ k, (blocks s)[b]? = some k :=
  ⟨_, List.getElem?_eq_getElem (by rwa [length_blocks])⟩

theorem dataSeqs_getElem? {s : State} {b : Nat} {k : Block} (hk : (blocks s)[b]? = some k) :
    (dataSeqs s)[b]? = some (blockData s b) := by
  simp [dataSeqs, dataSeqsFrom_getElem?, blockData, dataOffset, hk]

/-- The data of the blocks are the D_b of R265. -/
theorem dataSeqs_eq (s : State) : dataSeqs s = (List.range (nBlocks s)).map (blockData s) := by
  refine eq_map_range_of_getElem? ?_ fun b hb => ?_
  · simpa [length_blocks] using congrArg List.length (map_length_dataSeqs s)
  · obtain ⟨k, hk⟩ := exists_blocks_getElem? hb
    exact dataSeqs_getElem? hk

/-- The stored codewords of the blocks are the E_b of R267. -/
theorem ecSeqs_eq (s : State) : ecSeqs s = (List.range (nBlocks s)).map (blockEc s) := by
  refine eq_map_range_of_getElem? ?_ fun b hb => ?_
  · simpa [length_blocks] using congrArg List.length (map_length_ecSeqs s)
  · obtain ⟨k, hk⟩ := exists_blocks_getElem? hb
    simp [ecSeqs, ecSeqsFrom_getElem?, blockEc, hk]

theorem blockEc_of_getElem? {s : State} {b : Nat} {k : Block} (hk : (blocks s)[b]? = some k) :
    blockEc s b = readBytes s .ec (256 * b) k.n := by
  simp [blockEc, hk]

/-! ### RS_BLOCKS -/

/-- Each block's codewords are those of its data (R265(f)). -/
theorem ecSeqsOf_getElem? {bs : List Block} {ds es : List (List Byte)} {b : Nat} {k : Block} {d : List Byte}
    (h : ecSeqsOf bs ds = some es) (hk : bs[b]? = some k) (hd : ds[b]? = some d) : ecBytes d k.n = es[b]? := by
  induction bs generalizing ds es b with
  | nil => cases hk
  | cons k' bs ih =>
    cases ds with
    | nil => cases hd
    | cons d' ds =>
      rw [ecSeqsOf] at h
      split at h
      next e es' he hes =>
        cases h
        cases b with
        | zero =>
          cases hk
          cases hd
          exact he
        | succ b => exact ih (b := b) (ds := ds) hes hk hd
      next => contradiction

/-- R269: data and codewords of a block are not more than 255, so RS_BLOCKS raises no DOMAIN_ERROR. -/
theorem exists_ecSeqsOf {bs : List Block} {ds : List (List Byte)} (hd : ds.map List.length = bs.map Block.d)
    (hbs : ∀ b ∈ bs, b.d + b.n ≤ 255) : ∃ es, ecSeqsOf bs ds = some es := by
  induction bs generalizing ds with
  | nil => exact ⟨[], rfl⟩
  | cons b bs ih =>
    cases ds with
    | nil => contradiction
    | cons d ds =>
      obtain ⟨hb, hbs⟩ := List.forall_mem_cons.1 hbs
      obtain ⟨hlen, hd⟩ := List.cons.inj hd
      obtain ⟨e, he⟩ := exists_ecBytes (data := d) (n := b.n) (by omega)
      obtain ⟨es, hes⟩ := ih hd hbs
      exact ⟨e :: es, by rw [ecSeqsOf, he, hes]⟩

theorem t_le_of_mem_blocks {s : State} {b : Block} (hb : b ∈ blocks s) : b.t ≤ 255 := by
  simp only [blocks, List.mem_flatMap, List.mem_replicate] at hb
  obtain ⟨g, -, -, rfl⟩ := hb
  exact Nat.le_of_lt_succ g.total.isLt

theorem exists_ecSeqsOf_blocks {s : State} (hs : LayoutFits s) : ∃ es, ecSeqsOf (blocks s) (dataSeqs s) = some es := by
  refine exists_ecSeqsOf (map_length_dataSeqs s) fun b hb => ?_
  rw [Block.n, Nat.add_sub_of_le (hs.data_le b hb)]
  exact t_le_of_mem_blocks hb

theorem blocksBody_eq_ok {s : State} {es : List (List Byte)} (h : ecSeqsOf (blocks s) (dataSeqs s) = some es) :
    blocksBody s = .ok { writeEcFrom 0 s es with ecv := true } := by
  simp only [blocksBody, h]

/-- RS_BLOCKS writes the EC store alone, besides STATUS.ECV (R265). -/
theorem writeEcFrom_frame (b : Nat) (s : State) (es : List (List Byte)) : ∃ m, writeEcFrom b s es = { s with ec := m } := by
  induction es generalizing b s with
  | nil => exact ⟨s.ec, rfl⟩
  | cons e es ih =>
    obtain ⟨m, hm⟩ := ih (b + 1) (writeBytes s .ec (Config.ecStride * b) e)
    exact ⟨m, hm⟩

/-- The EC store after the codewords of block `start` and those after it were stored: byte i belongs to block i / 256, and
it is written where that block has a codeword i % 256 (R109). -/
theorem readByte_writeEcFrom {start : Nat} {es : List (List Byte)} (hes : ∀ e ∈ es, e.length ≤ 256) (s : State) (i : Nat) :
    readByte (writeEcFrom start s es) .ec i
      = if start ≤ i / 256 ∧ i % 256 < (es.getD (i / 256 - start) []).length then
          (es.getD (i / 256 - start) []).getD (i % 256) 0#8
        else readByte s .ec i := by
  induction es generalizing start s with
  | nil => simp [writeEcFrom]
  | cons e es ih =>
    obtain ⟨he, hes⟩ := List.forall_mem_cons.1 hes
    rw [writeEcFrom, ih hes, readByte_writeBytes]
    simp only [true_and, Config.ecStride]
    rcases Nat.lt_trichotomy start (i / 256) with hlater | rfl | hbefore
    · obtain ⟨j, hj⟩ : ∃ j, i / 256 - start = j + 1 := ⟨i / 256 - start - 1, by omega⟩
      have hj' : i / 256 - (start + 1) = j := by omega
      rw [hj, hj', List.getD_cons_succ, if_neg (c := 256 * start ≤ i ∧ _) (by omega)]
      simp only [hlater.le, Nat.succ_le_of_lt hlater]
    · have hi : i - 256 * (i / 256) = i % 256 := by omega
      rw [if_neg (by omega), Nat.sub_self, List.getD_cons_zero, hi]
      exact if_congr (by omega) rfl rfl
    · rw [if_neg (by omega), if_neg (by omega), if_neg (by omega)]

/-- The checks of RS_BLOCKS after those of the layout (R265). -/
theorem firstError_rsBlocksChecks (s : State) : firstError [(notFinalized s, sequenceError 1)]
    = if s.dataLenBits.toNat ≠ 8 * totalData s then some (sequenceError 1) else none := by
  by_cases h : s.dataLenBits.toNat = 8 * totalData s <;> simp [firstError, notFinalized, streamBits, h]

/-- The codewords of a layout's blocks, as many as each asks for and no more than its 256 places hold. -/
theorem length_of_ecSeqsOf_blocks {s : State} {es : List (List Byte)} (hes : ecSeqsOf (blocks s) (dataSeqs s) = some es) :
    es.map List.length = (blocks s).map Block.n :=
  map_length_ecSeqsOf hes (by simpa using congrArg List.length (map_length_dataSeqs s).symm)

theorem getElem?_ecSeqsOf_length {s : State} {es : List (List Byte)}
    (hes : ecSeqsOf (blocks s) (dataSeqs s) = some es) (b : Nat) :
    es[b]?.map List.length = (blocks s)[b]?.map Block.n := by
  simpa using congrArg (fun l => l[b]?) (length_of_ecSeqsOf_blocks hes)

theorem length_le_of_mem_ecSeqsOf {s : State} {es : List (List Byte)} (hes : ecSeqsOf (blocks s) (dataSeqs s) = some es) :
    ∀ e ∈ es, e.length ≤ 256 := by
  intro e he
  obtain ⟨b, hb, hn⟩ := List.mem_map.1 (length_of_ecSeqsOf_blocks hes ▸ List.mem_map_of_mem (f := List.length) he)
  exact hn ▸ n_le_of_mem_blocks hb

/-- After RS_BLOCKS the EC store has the codewords of every block at its place (R265). -/
theorem readBytes_writeEcFrom {s : State} {es : List (List Byte)} {b : Nat} {e : List Byte}
    (hes : ∀ e ∈ es, e.length ≤ 256) (he : es[b]? = some e) :
    readBytes (writeEcFrom 0 s es) .ec (256 * b) e.length = e := by
  have hlen := hes e (List.mem_of_getElem? he)
  refine List.ext_getElem? fun i => ?_
  rw [readBytes_getElem?]
  split
  next hi =>
    have hdiv : (256 * b + i) / 256 = b := by omega
    have hmod : (256 * b + i) % 256 = i := by omega
    simp [readByte_writeEcFrom hes, hdiv, hmod, he, hi]
  next hi => exact (List.getElem?_eq_none (Nat.not_lt.1 hi)).symm

/-- A byte of the EC store that belongs to no block's codewords is kept (R265). -/
theorem readByte_writeEcFrom_of_outside {s : State} {es : List (List Byte)} {i : Nat}
    (hes : ecSeqsOf (blocks s) (dataSeqs s) = some es)
    (houtside : ∀ b k, (blocks s)[b]? = some k → ¬(256 * b ≤ i ∧ i < 256 * b + k.n)) :
    readByte (writeEcFrom 0 s es) .ec i = readByte s .ec i := by
  rw [readByte_writeEcFrom (length_le_of_mem_ecSeqsOf hes), if_neg]
  rintro ⟨-, hi⟩
  have hlen := getElem?_ecSeqsOf_length hes (i / 256)
  cases he : es[i / 256]? with
  | none => simp [he] at hi
  | some e =>
    rw [he, Option.map_some, eq_comm, Option.map_eq_some_iff] at hlen
    obtain ⟨k, hk, hn⟩ := hlen
    refine houtside _ k hk ?_
    simp only [List.getD_eq_getElem?_getD, Nat.sub_zero, he, Option.getD_some] at hi
    omega

/-- Settles O38: over a faultless layout every block's codewords exist, and each stands at its place in the EC store. -/
theorem rsBlocksWritesTheRemainders : Obligations.RsBlocksWritesTheRemainders := by
  refine ⟨by decide, fun s => ?exec⟩
  case exec =>
    rw [exec, execRsBlocks]
    cases hlayout : layoutFault s with
    | some f => exact complete_layoutFault hlayout _ _
    | none =>
      have hchecks := (firstError_layoutChecks_append hlayout _).trans (firstError_rsBlocksChecks s)
      refine complete_report_or hchecks fun _ hchecks => ?_
      obtain ⟨es, hes⟩ := exists_ecSeqsOf_blocks (layoutFits_of_layoutFault hlayout)
      obtain ⟨m, hm⟩ := writeEcFrom_frame 0 s es
      rw [blocksBody_eq_ok hes]
      refine ⟨_, complete_ok hchecks, fun b k hk => ?codewords, fun i hi => ?kept, rfl, rfl, rfl, ?frame⟩
      case codewords =>
        have hlen := getElem?_ecSeqsOf_length hes b
        rw [hk, Option.map_some, Option.map_eq_some_iff] at hlen
        obtain ⟨e, he, hn⟩ := hlen
        rw [ecSeqsOf_getElem? hes hk (dataSeqs_getElem? hk), he, blockEc_of_getElem? (k := k) (by rw [hm]; exact hk), ← hn]
        exact congrArg some (readBytes_writeEcFrom (length_le_of_mem_ecSeqsOf hes) he).symm
      case kept => exact readByte_writeEcFrom_of_outside hes hi
      case frame =>
        rw [hm]
        rfl

end Sys2Proof.Machine
end

section
/-! PROOFS. RS_INTERLEAVE (42_rs.md R267): the stream has TOTAL_CW codewords, and CW holds them after the command. -/

namespace Sys2Proof.Machine

/-- Over a faultless layout data and error-correction codewords make up all codewords (R260). -/
theorem sum_d_add_sum_n_blocks {s : State} (hs : LayoutFits s) :
    ((blocks s).map Block.d).sum + ((blocks s).map Block.n).sum = totalCw s := by
  rw [← List.sum_map_add, ← sum_t_blocks]
  exact congrArg List.sum (List.map_congr_left fun b hb => Nat.add_sub_of_le (hs.data_le b hb))

theorem length_codewordStream {s : State} (hs : LayoutFits s) : (codewordStream s).length = totalCw s := by
  rw [codewordStream, length_interleave, map_length_dataSeqs, map_length_ecSeqs, sum_d_add_sum_n_blocks hs]

theorem readBytes_writeBytes_self (s : State) (b : Buf) (base : Nat) (vs : List Byte) :
    readBytes (writeBytes s b base vs) b base vs.length = vs := by
  refine List.ext_getElem? fun i => ?_
  rw [readBytes_getElem?]
  split
  next hi => simp [readByte_writeBytes, hi]
  next hi => exact (List.getElem?_eq_none (Nat.not_lt.1 hi)).symm

/-- What RS_INTERLEAVE can write: Buf(CW) and CW_LEN (R267). -/
theorem interleaveBody_frame (s : State) : ∃ m, interleaveBody s
    = { s with cw := m, cwLen := BitVec.ofNat 16 (codewordStream s).length } := ⟨_, rfl⟩

theorem readByte_interleaveBody (s : State) (b : Buf) (i : Nat) :
    readByte (interleaveBody s) b i = readByte (writeBytes s .cw 0 (codewordStream s)) b i := by
  cases b <;> rfl

theorem toNat_cwLen_interleaveBody {s : State} (hs : LayoutFits s) (hcw : totalCw s ≤ 4096) :
    (interleaveBody s).cwLen.toNat = totalCw s := by
  rw [← length_codewordStream hs] at hcw ⊢
  exact (BitVec.toNat_ofNat _ 16).trans (Nat.mod_eq_of_lt (by omega))

/-- The checks of RS_INTERLEAVE after those of the layout, in the order of R267. -/
theorem firstError_rsInterleaveChecks (s : State) : firstError
    [(streamOverCw s, capacityError 6), (notFinalized s, sequenceError 3), (!s.ecv, sequenceError 2)]
      = if 4096 < totalCw s then some (capacityError 6)
        else if s.dataLenBits.toNat ≠ 8 * totalData s then some (sequenceError 3)
        else if s.ecv = false then some (sequenceError 2)
        else none := by
  simp only [firstError, streamOverCw, notFinalized, decide_eq_true_eq, Bool.not_eq_true', beq_eq_false_iff_ne]
  rfl

/-- Settles O41: each check in turn, and then the stream that is written, of TOTAL_CW codewords. -/
theorem rsInterleaveWritesTheStream : Obligations.RsInterleaveWritesTheStream := by
  refine ⟨by decide, fun s => ?exec⟩
  case exec =>
    rw [exec, execRsInterleave]
    cases hlayout : layoutFault s with
    | some f => exact complete_layoutFault hlayout _ _
    | none =>
      have hfits := layoutFits_of_layoutFault hlayout
      have hchecks := (firstError_layoutChecks_append hlayout _).trans (firstError_rsInterleaveChecks s)
      refine complete_report_or hchecks fun hcw hchecks => ?_
      refine complete_report_or hchecks fun _ hchecks => ?_
      refine complete_report_or hchecks fun _ hchecks => ?_
      refine ⟨_, complete_ok hchecks, ?stream, fun b i hbi => ?kept, toNat_cwLen_interleaveBody hfits (Nat.not_lt.1 hcw),
        rfl, rfl, ?frame⟩
      case stream =>
        rw [← dataSeqs_eq, ← ecSeqs_eq, ← length_codewordStream hfits]
        exact readBytes_writeBytes_self s .cw 0 (codewordStream s)
      case kept =>
        rw [readByte_completeOk, readByte_interleaveBody, readByte_writeBytes, Nat.zero_add, length_codewordStream hfits,
          if_neg]
        exact fun ⟨hb, _, hi⟩ => hbi.elim (absurd hb) (Nat.not_le.2 hi)
      case frame =>
        obtain ⟨m, hm⟩ := interleaveBody_frame s
        rw [hm]
        rfl

end Sys2Proof.Machine
end

section
/-! PROOFS. RS_ENCODE is the three other commands in turn (42_rs.md R268), and no RS command raises DOMAIN_ERROR (R269). -/

namespace Sys2Proof.Machine

/-! ### DONE and BUSY do not matter to the bodies -/

@[simp] theorem completeOk_completeOk (s : State) : completeOk (completeOk s) = completeOk s := rfl

@[simp] theorem layoutFault_completeOk (s : State) : layoutFault (completeOk s) = layoutFault s :=
  layoutFault_congr (completeOk_groups s)

@[simp] theorem totalData_completeOk (s : State) : totalData (completeOk s) = totalData s := rfl

@[simp] theorem totalCw_completeOk (s : State) : totalCw (completeOk s) = totalCw s := rfl

@[simp] theorem readBytes_completeOk (s : State) (b : Buf) (base n : Nat) :
    readBytes (completeOk s) b base n = readBytes s b base n := by
  simp [readBytes]

theorem dataSeqsFrom_completeOk (s : State) (off : Nat) (bs : List Block) :
    dataSeqsFrom (completeOk s) off bs = dataSeqsFrom s off bs := by
  induction bs generalizing off with
  | nil => rfl
  | cons b bs ih => rw [dataSeqsFrom, readBytes_completeOk, ih, dataSeqsFrom]

theorem ecSeqsFrom_completeOk (s : State) (b : Nat) (bs : List Block) :
    ecSeqsFrom (completeOk s) b bs = ecSeqsFrom s b bs := by
  induction bs generalizing b with
  | nil => rfl
  | cons k bs ih => rw [ecSeqsFrom, readBytes_completeOk, ih, ecSeqsFrom]

theorem writeEcFrom_completeOk (b : Nat) (s : State) (es : List (List Byte)) :
    writeEcFrom b (completeOk s) es = completeOk (writeEcFrom b s es) := by
  induction es generalizing b s with
  | nil => rfl
  | cons e es ih => exact ih (b + 1) (writeBytes s .ec (Config.ecStride * b) e)

theorem blocksBody_completeOk {s u : State} (h : blocksBody s = .ok u) : blocksBody (completeOk s) = .ok (completeOk u) := by
  obtain ⟨es, hes, rfl⟩ := blocksBody_cases h
  have hes' : ecSeqsOf (blocks (completeOk s)) (dataSeqs (completeOk s)) = some es := by
    rw [dataSeqs, dataSeqsFrom_completeOk]
    exact hes
  rw [blocksBody_eq_ok hes', writeEcFrom_completeOk]
  rfl

theorem interleaveBody_completeOk (s : State) : interleaveBody (completeOk s) = completeOk (interleaveBody s) := by
  have hstream : codewordStream (completeOk s) = codewordStream s := by
    rw [codewordStream, dataSeqs, ecSeqs, dataSeqsFrom_completeOk, ecSeqsFrom_completeOk]
    rfl
  rw [interleaveBody, hstream]
  rfl

/-! ### The stages -/

/-- Over a faultless layout RS_BLOCKS has no error of its own (R269). -/
theorem exists_blocksBody {s : State} (hs : LayoutFits s) : ∃ u, blocksBody s = .ok u := by
  obtain ⟨es, hes⟩ := exists_ecSeqsOf_blocks hs
  exact ⟨_, blocksBody_eq_ok hes⟩

theorem blocksBody_ecv {s u : State} (h : blocksBody s = .ok u) : u.ecv = true := by
  obtain ⟨es, -, rfl⟩ := blocksBody_cases h
  rfl

theorem blocksBody_dataLenBits {s u : State} (h : blocksBody s = .ok u) : u.dataLenBits = s.dataLenBits := by
  obtain ⟨es, -, rfl⟩ := blocksBody_cases h
  obtain ⟨m, hm⟩ := writeEcFrom_frame 0 s es
  rw [hm]

@[simp] theorem interleaveBody_groups (s : State) : (interleaveBody s).groups = s.groups := by
  simp [interleaveBody, writeBytes]

@[simp] theorem interleaveBody_dataLenBits (s : State) : (interleaveBody s).dataLenBits = s.dataLenBits := by
  simp [interleaveBody, writeBytes]

@[simp] theorem interleaveBody_ecv (s : State) : (interleaveBody s).ecv = s.ecv := by simp [interleaveBody, writeBytes]

/-- RS_BLOCKS over a faultless layout with finalized data (R265). -/
theorem exec_rsBlocks_ok {s u : State} (hlayout : layoutFault s = none) (hfull : s.dataLenBits.toNat = 8 * totalData s)
    (hbody : blocksBody s = .ok u) : exec .rsBlocks s = .next (completeOk u) := by
  rw [exec, execRsBlocks, hbody]
  refine complete_ok ?_
  rw [firstError_layoutChecks_append hlayout, firstError_rsBlocksChecks, if_neg (not_not.2 hfull)]

/-- RS_INTERLEAVE over a faultless layout that fits CW, with finalized data and a valid EC store (R267). -/
theorem exec_rsInterleave_ok {s : State} (hlayout : layoutFault s = none) (hcw : totalCw s ≤ 4096)
    (hfull : s.dataLenBits.toNat = 8 * totalData s) (hecv : s.ecv = true) :
    exec .rsInterleave s = .next (completeOk (interleaveBody s)) := by
  refine complete_ok ?_
  rw [firstError_layoutChecks_append hlayout, firstError_rsInterleaveChecks, if_neg (Nat.not_lt.2 hcw),
    if_neg (not_not.2 hfull), if_neg (by simp [hecv])]

/-- The checks of RS_ENCODE after those of the layout, in the order of R268. -/
theorem firstError_rsEncodeChecks (s : State) : firstError
    [(streamTooLong s, capacityError 4), (streamOverCw s, capacityError 6),
      (streamOverflows s, encodingOverflow (streamBits s))]
      = if 32768 < s.dataLenBits.toNat then some (capacityError 4)
        else if 4096 < totalCw s then some (capacityError 6)
        else if 8 * totalData s < s.dataLenBits.toNat then some (encodingOverflow s.dataLenBits.toNat)
        else none := by
  simp only [firstError, streamTooLong, streamOverCw, streamOverflows, decide_eq_true_eq]
  rfl

/-- The first two stages leave finalized data and a valid EC store over the layout they began with (R264, R265). -/
theorem exists_blocksBody_finalizeBody {s : State} (hlayout : layoutFault s = none) :
    ∃ u, blocksBody (finalizeBody s) = .ok u ∧ Keeps s u ∧ u.groups = s.groups
      ∧ u.dataLenBits.toNat = 8 * totalData s ∧ u.ecv = true := by
  have hgroups := finalizeBody_groups s
  obtain ⟨u, hu⟩ := exists_blocksBody ((layoutFits_of_layoutFault hlayout).of_groups_eq hgroups)
  exact ⟨u, hu, (finalizeBody_keeps s).trans (blocksBody_keeps hu), (blocksBody_groups hu).trans hgroups,
    blocksBody_dataLenBits hu ▸ toNat_dataLenBits_finalizeBody hlayout, blocksBody_ecv hu⟩

/-- Settles O42: each stage leaves what the checks of the next one ask for. -/
theorem rsEncodeIsTheThreeInTurn : Obligations.RsEncodeIsTheThreeInTurn := by
  refine ⟨by decide, fun s => ?exec⟩
  case exec =>
    cases hlayout : layoutFault s with
    | some f => exact complete_layoutFault hlayout _ _
    | none =>
      have hchecks := (firstError_layoutChecks_append hlayout _).trans (firstError_rsEncodeChecks s)
      refine complete_report_or hchecks fun _ hchecks => ?_
      refine complete_report_or hchecks fun hcw hchecks => ?_
      refine complete_report_or hchecks fun hfit hchecks => ?_
      obtain ⟨u, hu, hkeeps, hgroups, hfull, hecv⟩ := exists_blocksBody_finalizeBody hlayout
      have hlayout2 : layoutFault u = none := (layoutFault_congr hgroups).trans hlayout
      have hcw2 : totalCw u ≤ 4096 := (totalCw_congr hgroups).trans_le (Nat.not_lt.1 hcw)
      have hencode : exec .rsEncode s = .next (completeOk (interleaveBody u)) := by
        rw [exec, execRsEncode, hu]
        exact complete_ok hchecks
      have hblocks : exec .rsBlocks (completeOk (finalizeBody s)) = .next (completeOk u) := by
        refine exec_rsBlocks_ok (u := completeOk u) ?_ ?_ (blocksBody_completeOk hu)
        · rw [layoutFault_completeOk, layoutFault_congr (finalizeBody_groups s), hlayout]
        · rw [completeOk_dataLenBits, toNat_dataLenBits_finalizeBody hlayout, totalData_completeOk,
            totalData_congr (finalizeBody_groups s)]
      have hinterleave : exec .rsInterleave (completeOk u) = .next (completeOk (interleaveBody u)) := by
        rw [exec_rsInterleave_ok, interleaveBody_completeOk, completeOk_completeOk]
        · rw [layoutFault_completeOk, hlayout2]
        · rwa [totalCw_completeOk]
        · rw [completeOk_dataLenBits, hfull, totalData_completeOk, totalData_congr hgroups]
        · rwa [completeOk_ecv]
      refine ⟨_, _, _, hencode, exec_rsFinalize_ok hlayout (Nat.not_lt.1 hfit), hblocks, hinterleave,
        (finalizeBody_keeps s).cmdErrors, hkeeps.cmdErrors, (hkeeps.trans (interleaveBody_keeps u)).cmdErrors, ?bits, ?length,
        ?ecv, completeOk_done _, completeOk_busy _⟩
      case bits => rw [completeOk_dataLenBits, interleaveBody_dataLenBits, hfull]
      case length =>
        rw [completeOk_cwLen, toNat_cwLen_interleaveBody (layoutFits_of_layoutFault hlayout2) hcw2, totalCw_congr hgroups]
      case ecv => rw [completeOk_ecv, interleaveBody_ecv, hecv]

/-! ### DOMAIN_ERROR -/

theorem mem_of_firstError {checks : List (Bool × CommandError)} {e : CommandError} (h : firstError checks = some e) :
    ∃ c ∈ checks, c.2 = e := by
  induction checks with
  | nil => contradiction
  | cons c rest ih =>
    obtain ⟨failed, e'⟩ := c
    cases failed
    · obtain ⟨c, hc, he⟩ := ih h
      exact ⟨c, List.mem_cons_of_mem _ hc, he⟩
    · exact ⟨_, List.mem_cons_self, Option.some_inj.1 h⟩

/-- A completion that has no check for DOMAIN_ERROR, and whose effect raises no error once the checks have passed. -/
theorem complete_without_domainError {checks : List (Bool × CommandError)} {effect : Except CommandError State} {s t : State}
    (hcauses : ∀ c ∈ checks, c.2.cause ≠ .domainError)
    (heffect : firstError checks = none → ∃ u, effect = .ok u ∧ Keeps s u) (h : complete checks effect s = .next t) :
    t.cmdErrors = s.cmdErrors ∨ ∃ c info, c ≠ ErrCause.domainError ∧ t.cmdErrors = ⟨c, info⟩ :: s.cmdErrors := by
  rcases complete_cases h with ⟨e, he, rfl⟩ | ⟨hnone, e, he, rfl⟩ | ⟨hnone, u, hu, rfl⟩
  · obtain ⟨c, hc, rfl⟩ := mem_of_firstError he
    exact .inr ⟨c.2.cause, c.2.info, hcauses c hc, rfl⟩
  · obtain ⟨u, hu, -⟩ := heffect hnone
    cases hu.symm.trans he
  · obtain ⟨u', hu', hkeeps⟩ := heffect hnone
    cases hu'.symm.trans hu
    exact .inl hkeeps.cmdErrors

/-- Settles O43: no check names DOMAIN_ERROR, and over a faultless layout every block's codewords exist. -/
theorem noRsCommandRaisesDomainError : Obligations.NoRsCommandRaisesDomainError := by
  intro i s t hi h
  simp only [List.mem_cons, List.not_mem_nil, or_false] at hi
  rcases hi with rfl | rfl | rfl | rfl <;> rw [exec] at h
  · refine complete_without_domainError ?_ (fun _ => ⟨finalizeBody s, rfl, finalizeBody_keeps s⟩) h
    simp [layoutChecks, configError, capacityError, encodingOverflow]
  · refine complete_without_domainError ?_ (fun hnone => ?_) h
    · simp [layoutChecks, configError, capacityError, sequenceError]
    · obtain ⟨u, hu⟩ := exists_blocksBody (layoutFits_of_checks hnone).1
      exact ⟨u, hu, blocksBody_keeps hu⟩
  · refine complete_without_domainError ?_ (fun _ => ⟨interleaveBody s, rfl, interleaveBody_keeps s⟩) h
    simp [layoutChecks, configError, capacityError, sequenceError]
  · refine complete_without_domainError ?_ (fun hnone => ?_) h
    · simp [layoutChecks, configError, capacityError, encodingOverflow]
    · obtain ⟨u, hu, hkeeps, -⟩ := exists_blocksBody_finalizeBody (layoutFault_eq_none_of_checks hnone)
      exact ⟨interleaveBody u, by rw [hu], hkeeps.trans (interleaveBody_keeps u)⟩

end Sys2Proof.Machine
end

section
/-! PROOFS. STATUS.ECV stays 1 only over a faultless layout with finalized data (42_rs.md R266). -/

namespace Sys2Proof.Machine

/-- What `ecvOk` reads of a state. -/
def layoutView (s : State) : Bool × Vector Group 4 × BitVec 16 := (s.ecv, s.groups, s.dataLenBits)

/-- The invariant depends on ECV, the GROUP registers and DATA_LEN_BITS alone. -/
theorem ecvOk_of_layoutView_eq {s u : State} (h : layoutView u = layoutView s) (hs : ecvOk s) : ecvOk u := by
  simp only [layoutView, Prod.mk.injEq] at h
  obtain ⟨hecv, hgroups, hbits⟩ := h
  rw [ecvOk, hecv, layoutFault_congr hgroups, hbits, totalData_congr hgroups]
  exact hs

theorem ecvOk_of_ecv {s : State} (h : s.ecv = false) : ecvOk s := by simp [ecvOk, h]

theorem ecvOk_of_finalized {s u : State} (hlayout : layoutFault s = none) (hgroups : u.groups = s.groups)
    (hfull : u.dataLenBits.toNat = 8 * totalData s) : ecvOk u := fun _ =>
  ⟨(layoutFault_congr hgroups).trans hlayout, by rw [hfull, totalData_congr hgroups]⟩

/-! ### The commands -/

@[simp] theorem layoutView_writePoly (s : State) (p : PolyBuf) (r : Poly) :
    layoutView (writePoly s p r) = layoutView s := by
  simp [layoutView, writePoly, writeBytes]

@[simp] theorem layoutView_interleaveBody (s : State) : layoutView (interleaveBody s) = layoutView s := by
  simp [layoutView]

/-! The commands that write registers alone: each for any value written, so that no proof looks into the computation. -/

theorem layoutView_writeResult (v : Nat) (s : State) : layoutView (writeResult v s) = layoutView s := rfl

theorem layoutView_withSelection (m : BitVec 3) (s : State) :
    layoutView { s with selMask := m, selValid := true } = layoutView s := rfl

theorem layoutView_recordPenalty (k : Nat) (p : Nat × Nat × Nat × Nat) (s : State) :
    layoutView (recordPenalty k p s) = layoutView s := rfl

/-- A completion keeps the invariant when the effect of its passed checks does: an error report and DONE do not touch it. -/
theorem complete_keeps_ecvOk {checks : List (Bool × CommandError)} {effect : Except CommandError State} {s t : State}
    (hs : ecvOk s) (hok : ∀ u, firstError checks = none → effect = .ok u → ecvOk u)
    (h : complete checks effect s = .next t) : ecvOk t :=
  complete_ind ecvOk h (fun _ => ecvOk_of_layoutView_eq rfl hs) fun u hnone hu =>
    ecvOk_of_layoutView_eq (s := u) rfl (hok u hnone hu)

/-- The same for an effect that leaves the three registers alone, as every effect but those of RS_FINALIZE, RS_BLOCKS and
RS_ENCODE does. -/
theorem complete_keeps_ecvOk_of_view {checks : List (Bool × CommandError)} {effect : Except CommandError State} {s t : State}
    (hs : ecvOk s) (hok : ∀ u, effect = .ok u → layoutView u = layoutView s) (h : complete checks effect s = .next t) :
    ecvOk t :=
  complete_keeps_ecvOk hs (fun u _ hu => ecvOk_of_layoutView_eq (hok u hu) hs) h

/-- RS_BLOCKS and RS_ENCODE set ECV after their checks have found a faultless layout and the data finalized, or with the
data finalized by themselves; RS_FINALIZE clears it. -/
theorem exec_keeps_ecvOk {i : Instr} {s t : State} (hs : ecvOk s) (h : exec i s = .next t) : ecvOk t := by
  cases i <;> simp only [exec, execNop, execGfExp, execGfLog, execGfMul, execPolyNew, execPolyCopy, execPolyMul, execPolyMod,
    execPolyGen, execRsFinalize, execRsBlocks, execRsInterleave, execRsEncode, execMaskEval, execMaskSelect,
    execMaskClear] at h
  case nop | maskClear => exact complete_keeps_ecvOk_of_view hs (by rintro u ⟨⟩; rfl) h
  case gfExp => exact complete_keeps_ecvOk_of_view hs (by rintro u ⟨⟩; exact layoutView_writeResult _ s) h
  case maskSelect => exact complete_keeps_ecvOk_of_view hs (by rintro u ⟨⟩; exact layoutView_withSelection _ s) h
  case maskEval k => exact complete_keeps_ecvOk_of_view hs (by rintro u ⟨⟩; exact layoutView_recordPenalty k _ s) h
  case gfLog | gfMul =>
    refine complete_keeps_ecvOk_of_view hs (fun u hu => ?_) h
    split at hu <;> cases hu
    exact layoutView_writeResult _ s
  case polyNew | polyCopy | rsInterleave => exact complete_keeps_ecvOk_of_view hs (by rintro u ⟨⟩; simp) h
  case polyMul | polyMod | polyGen =>
    refine complete_keeps_ecvOk_of_view hs (fun u hu => ?_) h
    split at hu <;> cases hu
    simp
  case rsFinalize => exact complete_keeps_ecvOk hs (by rintro u - ⟨⟩; exact ecvOk_of_ecv rfl) h
  case rsBlocks =>
    refine complete_keeps_ecvOk hs (fun u hchecks hu => ?_) h
    have hlayout := layoutFault_eq_none_of_checks hchecks
    rw [firstError_layoutChecks_append hlayout, firstError_rsBlocksChecks] at hchecks
    refine ecvOk_of_finalized hlayout (blocksBody_groups hu) ?_
    rw [blocksBody_dataLenBits hu]
    simpa using hchecks
  case rsEncode =>
    refine complete_keeps_ecvOk hs (fun u hchecks hu => ?_) h
    have hlayout := layoutFault_eq_none_of_checks hchecks
    obtain ⟨v, hv, -, hgroups, hfull, -⟩ := exists_blocksBody_finalizeBody hlayout
    rw [hv] at hu
    cases hu
    refine ecvOk_of_finalized hlayout ?_ ?_
    · rw [interleaveBody_groups, hgroups]
    · rw [interleaveBody_dataLenBits, hfull]

/-! ### The accesses of the host -/

/-- Every write that changes the layout or DATA_LEN_BITS clears ECV, and so does a reset (R48, R51, R266). -/
theorem afterWrite_clears_ecv_or (s : State) (v : Word) (r : Reg) :
    (afterWrite s v r).ecv = false ∨ layoutView (afterWrite s v r) = layoutView s := by
  cases r with
  | dataLenBits => exact .inl rfl
  | group k => exact .inl rfl
  | ctrl =>
    by_cases hreset : v.getLsbD 31 = true
    · exact .inl (congrArg State.ecv (if_pos hreset))
    · have hfields : afterWrite s v .ctrl = writeCtrlFields v s := if_neg hreset
      exact .inr (by rw [hfields]; rfl)
  | bufData =>
    refine .inr ?_
    simp [afterWrite, writeByte, layoutView]
  | matData =>
    refine .inr ?_
    simp only [afterWrite, advanceMat]
    split <;> rfl
  | _ => exact .inr rfl

theorem afterWrite_keeps_ecvOk {s : State} (v : Word) (r : Reg) (hs : ecvOk s) : ecvOk (afterWrite s v r) := by
  rcases afterWrite_clears_ecv_or s v r with h | h
  · exact ecvOk_of_ecv h
  · exact ecvOk_of_layoutView_eq h hs

/-- Settles O19, over the moves of a step. -/
theorem stepKeepsEcvOverAFinalizedLayout : Obligations.StepKeepsEcvOverAFinalizedLayout := by
  intro s t hs hstep
  refine step_ind ecvOk hstep hs (hturn := fun _ _ h => ecvOk_of_layoutView_eq rfl h)
    (hhost := fun _ _ h => ecvOk_of_layoutView_eq rfl h) (hrep := fun _ _ h => ecvOk_of_layoutView_eq rfl h)
    (hacc := fun _ _ _ h => ecvOk_of_layoutView_eq rfl h) (hreset := fun _ _ => ecvOk_of_ecv rfl) (hread := ?hread)
    (hwrite := fun s _ _ v r h _ _ => afterWrite_keeps_ecvOk v r h) (hill := fun _ h _ => ecvOk_of_layoutView_eq rfl h)
    (hexec := fun i s t h _ => exec_keeps_ecvOk h)
  case hread =>
    intro s _ _ r h _ _
    obtain ⟨u, hu⟩ := afterRead_frame s r
    rw [hu]
    exact ecvOk_of_layoutView_eq rfl h

end Sys2Proof.Machine
end

section
/-! PROOFS. The penalty rules as counts (43_mask.md R301 to R303): the double sums of the rules over a matrix, the neighbours
of a cell, the blocks of one colour and the windows equal to the signature. -/

namespace Sys2Proof.Machine

/-! ### Sums over rows and columns -/

theorem sumTo_eq_sum (n : Nat) (f : Nat → Nat) : sumTo n f = ∑ i ∈ Finset.range n, f i :=
  (Multiset.sum_coe _).symm

theorem sumTo_congr {n : Nat} {f g : Nat → Nat} (h : ∀ i, i < n → f i = g i) : sumTo n f = sumTo n g := by
  rw [sumTo_eq_sum, sumTo_eq_sum]
  exact Finset.sum_congr rfl fun i hi => h i (Finset.mem_range.1 hi)

theorem sumTo_le {n b : Nat} {f : Nat → Nat} (h : ∀ i, f i ≤ b) : sumTo n f ≤ n * b := by
  simpa [sumTo_eq_sum] using Finset.sum_le_card_nsmul (Finset.range n) f b fun i _ => h i

theorem sumTo_comm (a b : Nat) (f : Nat → Nat → Nat) :
    sumTo a (fun i => sumTo b (f i)) = sumTo b (fun j => sumTo a (fun i => f i j)) := by
  simp only [sumTo_eq_sum]
  exact Finset.sum_comm

/-- A rule that adds k for every one of the first a rows and b columns with a property is k times the number of positions
that `Q` describes. -/
theorem sumTo_sumTo_ite {n a b : Nat} (ha : a ≤ n) (hb : b ≤ n) (k : Nat) {P : Nat → Nat → Prop} {Q : Nat × Nat → Prop}
    [∀ r c, Decidable (P r c)] [DecidablePred Q] (h : ∀ r c, r < n → c < n → (Q (r, c) ↔ r < a ∧ c < b ∧ P r c)) :
    sumTo a (fun r => sumTo b (fun c => if P r c then k else 0))
      = k * ((Finset.range n ×ˢ Finset.range n).filter Q).card := by
  have hpositions : (Finset.range n ×ˢ Finset.range n).filter Q
      = (Finset.range a ×ˢ Finset.range b).filter (fun p => P p.1 p.2) := by
    ext ⟨r, c⟩
    simp only [Finset.mem_filter, Finset.mem_product, Finset.mem_range]
    constructor
    · rintro ⟨⟨hr, hc⟩, hQ⟩
      obtain ⟨hra, hcb, hP⟩ := (h r c hr hc).1 hQ
      exact ⟨⟨hra, hcb⟩, hP⟩
    · rintro ⟨⟨hra, hcb⟩, hP⟩
      have hr : r < n := by omega
      have hc : c < n := by omega
      exact ⟨⟨hr, hc⟩, (h r c hr hc).2 ⟨hra, hcb, hP⟩⟩
  rw [hpositions, Finset.card_filter, Finset.mul_sum, Finset.sum_product]
  simp only [sumTo_eq_sum, mul_ite, mul_one, mul_zero]

/-! ### Rule 1 -/

theorem mem_neighbourOffsets {o : Int × Int} :
    o ∈ neighbourOffsets ↔ o ≠ (0, 0) ∧ -1 ≤ o.1 ∧ o.1 ≤ 1 ∧ -1 ≤ o.2 ∧ o.2 ≤ 1 := by
  obtain ⟨dr, dc⟩ := o
  simp only [neighbourOffsets, List.mem_cons, List.not_mem_nil, or_false, Prod.mk.injEq, ne_eq]
  omega

theorem sameColourAt_iff {m : Nat → Nat → Bool} {n r c : Nat} {o : Int × Int} : sameColourAt m n r c o = true
    ↔ ((0 ≤ r + o.1 ∧ r + o.1 < n) ∧ 0 ≤ c + o.2 ∧ c + o.2 < n) ∧ m (r + o.1).toNat (c + o.2).toNat = m r c := by
  simp [sameColourAt, and_assoc]

/-- The offsets that count are in bijection with the neighbours of the same colour: each leads from (r, c) to one. -/
theorem sameNeighbours_eq_card (m : Nat → Nat → Bool) (n r c : Nat) : sameNeighbours m n r c
    = ((Finset.range n ×ˢ Finset.range n).filter (fun p =>
        p ≠ (r, c) ∧ p.1 ≤ r + 1 ∧ r ≤ p.1 + 1 ∧ p.2 ≤ c + 1 ∧ c ≤ p.2 + 1 ∧ m p.1 p.2 = m r c)).card := by
  have hnodup : (neighbourOffsets.filter (sameColourAt m n r c)).Nodup := List.Nodup.filter _ (by decide)
  rw [sameNeighbours, ← List.toFinset_card_of_nodup hnodup]
  refine Finset.card_nbij' (fun o => ((r + o.1).toNat, (c + o.2).toNat)) (fun p => ((p.1 : Int) - r, (p.2 : Int) - c))
    ?position ?offset ?back ?forth
  case position =>
    rintro ⟨dr, dc⟩ ho
    simp only [Finset.mem_coe, List.mem_toFinset, List.mem_filter, mem_neighbourOffsets, sameColourAt_iff, ne_eq,
      Prod.mk.injEq] at ho
    obtain ⟨hnear, hinside, hcolour⟩ := ho
    simp only [Finset.mem_coe, Finset.mem_filter, Finset.mem_product, Finset.mem_range, ne_eq, Prod.mk.injEq]
    exact ⟨by omega, by omega, by omega, by omega, by omega, by omega, hcolour⟩
  case offset =>
    rintro ⟨y, x⟩ hp
    simp only [Finset.mem_coe, Finset.mem_filter, Finset.mem_product, Finset.mem_range, ne_eq, Prod.mk.injEq] at hp
    obtain ⟨hinside, hne, hy, hy', hx, hx', hcolour⟩ := hp
    simp only [Finset.mem_coe, List.mem_toFinset, List.mem_filter, mem_neighbourOffsets, sameColourAt_iff, ne_eq,
      Prod.mk.injEq, add_sub_cancel, Int.toNat_natCast]
    exact ⟨by omega, by omega, hcolour⟩
  case back =>
    rintro ⟨dr, dc⟩ ho
    simp only [Finset.mem_coe, List.mem_toFinset, List.mem_filter, sameColourAt_iff] at ho
    simp only [Prod.mk.injEq]
    omega
  case forth =>
    rintro ⟨y, x⟩ -
    simp

/-- A cell has no more same-colour neighbours than offsets that a test passes, when the test passes all that count. -/
theorem sameNeighbours_le {m : Nat → Nat → Bool} {n r c : Nat} (test : Int × Int → Bool)
    (h : ∀ o, sameColourAt m n r c o = true → test o = true) :
    sameNeighbours m n r c ≤ (neighbourOffsets.filter test).length :=
  (List.monotone_filter_right neighbourOffsets h).length_le

theorem sameNeighbours_le_eight (m : Nat → Nat → Bool) (n r c : Nat) : sameNeighbours m n r c ≤ 8 :=
  List.length_filter_le _ _

/-- The step from a border row or column that leaves the matrix. -/
def outward (i : Nat) : Int := if i = 0 then -1 else 1

theorem outward_eq (i : Nat) : outward i = -1 ∨ outward i = 1 := by
  unfold outward
  split <;> simp

theorem ne_outward {n i : Nat} {d : Int} (hborder : i = 0 ∨ i + 1 = n) (hinside : 0 ≤ i + d ∧ i + d < n) :
    d ≠ outward i := by
  unfold outward
  split <;> omega

theorem sameNeighbours_le_five_of_border_row {m : Nat → Nat → Bool} {n r : Nat} (c : Nat) (hr : r = 0 ∨ r + 1 = n) :
    sameNeighbours m n r c ≤ 5 := by
  have hle := sameNeighbours_le (m := m) (n := n) (r := r) (c := c) (fun o => o.1 ≠ outward r) fun o ho => by
    simpa using ne_outward hr (sameColourAt_iff.1 ho).1.1
  rcases outward_eq r with h | h <;> rw [h] at hle <;> exact hle

theorem sameNeighbours_le_five_of_border_column {m : Nat → Nat → Bool} {n c : Nat} (r : Nat) (hc : c = 0 ∨ c + 1 = n) :
    sameNeighbours m n r c ≤ 5 := by
  have hle := sameNeighbours_le (m := m) (n := n) (r := r) (c := c) (fun o => o.2 ≠ outward c) fun o ho => by
    simpa using ne_outward hc (sameColourAt_iff.1 ho).1.2
  rcases outward_eq c with h | h <;> rw [h] at hle <;> exact hle

theorem sameNeighbours_le_three_of_corner {m : Nat → Nat → Bool} {n r c : Nat} (hr : r = 0 ∨ r + 1 = n)
    (hc : c = 0 ∨ c + 1 = n) : sameNeighbours m n r c ≤ 3 := by
  have hle := sameNeighbours_le (m := m) (n := n) (r := r) (c := c) (fun o => o.1 ≠ outward r ∧ o.2 ≠ outward c)
    fun o ho => by
    obtain ⟨⟨hrow, hcol⟩, -⟩ := sameColourAt_iff.1 ho
    simpa using ⟨ne_outward hr hrow, ne_outward hc hcol⟩
  rcases outward_eq r with h | h <;> rcases outward_eq c with h' | h' <;> rw [h, h'] at hle <;> exact hle

/-- Settles O44: the neighbours by `sameNeighbours_eq_card`, and the bounds by the offsets that leave the matrix. -/
theorem rule1CountsNeighbourhoods : Obligations.Rule1CountsNeighbourhoods := by
  refine fun m n => ⟨fun r c _ _ => sameNeighbours_eq_card m n r c, ?sum,
    fun r c => sameNeighbours_le_three_of_corner, fun r c => ?edge⟩
  case sum => simp only [penaltyRule1, sumTo_eq_sum]
  case edge =>
    rintro (hr | hr | hc | hc)
    · exact sameNeighbours_le_five_of_border_row c (.inl hr)
    · exact sameNeighbours_le_five_of_border_row c (.inr hr)
    · exact sameNeighbours_le_five_of_border_column r (.inl hc)
    · exact sameNeighbours_le_five_of_border_column r (.inr hc)

/-! ### Rules 2 and 3 -/

/-- A block has none or all of its cells dark exactly when its cells have one colour. -/
theorem darkCells_zero_or_four (a b c d : Bool) :
    (a.toNat + b.toNat + c.toNat + d.toNat = 0 ∨ a.toNat + b.toNat + c.toNat + d.toNat = 4) ↔ b = a ∧ c = a ∧ d = a := by
  decide +revert

/-- A window equals the signature exactly when it does so cell by cell. -/
theorem window_eq_finderSignature (f : Nat → Bool) : (List.range 7).map f = finderSignature
    ↔ ∀ j, j < 7 → f j = [true, false, true, true, true, false, true].getD j false := by
  constructor
  · intro h j hj
    have hcell : ((List.range 7).map f).getD j false = f j := by simp [hj]
    rw [← hcell, h, finderSignature]
  · intro h
    refine List.ext_getElem rfl fun j hj hj' => ?_
    rw [List.getElem_map, List.getElem_range, h j (by simpa using hj)]
    exact List.getD_eq_getElem _ _ hj'

/-- Settles O45: each rule adds a constant for every position with a property, which `sumTo_sumTo_ite` counts. -/
theorem rules2And3CountBlocksAndWindows : Obligations.Rules2And3CountBlocksAndWindows := by
  refine fun m n => ⟨?blocks, congrArg₂ (· + ·) ?horizontal ?vertical⟩
  case blocks =>
    refine sumTo_sumTo_ite (Nat.sub_le n 1) (Nat.sub_le n 1) 3 fun r c _ _ => ?_
    rw [darkCells_zero_or_four, Nat.lt_sub_iff_add_lt, Nat.lt_sub_iff_add_lt]
  case horizontal =>
    refine sumTo_sumTo_ite le_rfl (Nat.sub_le n 6) 40 fun r c hr _ => ?_
    rw [window_eq_finderSignature, Nat.lt_sub_iff_add_lt]
    exact (and_iff_right hr).symm
  case vertical =>
    rw [sumTo_comm]
    refine sumTo_sumTo_ite (Nat.sub_le n 6) le_rfl 40 fun r c _ hc => ?_
    rw [window_eq_finderSignature, Nat.lt_sub_iff_add_lt]
    exact and_congr_right fun _ => (and_iff_right hc).symm

end Sys2Proof.Machine
end

section
/-! PROOFS. Rule 4 in its two arithmetics (43_mask.md R304) and the bounds of the penalties (R306). -/

namespace Sys2Proof.Machine

/-! ### Rule 4 -/

theorem lightCount_eq_card (m : Nat → Nat → Bool) (n : Nat) :
    lightCount m n = ((Finset.range n ×ˢ Finset.range n).filter (fun p => m p.1 p.2 = false)).card := by
  simp only [lightCount, ← ite_not (m _ _ = true)]
  refine (sumTo_sumTo_ite le_rfl le_rfl 1 fun r c hr hc => ?_).trans (one_mul _)
  simp [hr, hc]

/-- Rule 4's distance of a percentage a / b from 50, in steps of 5, is a quotient of whole numbers. -/
theorem floor_abs_percent_sub_fifty (a : Nat) {b : Nat} (hb : 0 < b) :
    ⌊|(a : ℚ) / b - 50| / 5⌋ = ((((a : Nat) - (50 * b : Nat) : Int).natAbs / (5 * b) : Nat) : Int) := by
  have hb' : (0 : ℚ) < b := Nat.cast_pos.2 hb
  have hquotient : |(a : ℚ) / b - 50| / 5
      = ((((a : Nat) - (50 * b : Nat) : Int).natAbs : Nat) : ℚ) / ((5 * b : Nat) : ℚ) := by
    rw [Nat.cast_natAbs, div_sub' hb'.ne', abs_div, abs_of_pos hb', div_div]
    push_cast
    ring_nf
  rw [hquotient, Rat.floor_natCast_div_natCast]
  rfl

theorem penaltyRule4_exactRatio_eq_floor (lc : Nat) {n : Nat} (hn : 0 < n) :
    (penaltyRule4 .exactRatio lc n : ℤ) = 10 * ⌊|(100 * lc : ℚ) / n ^ 2 - 50| / 5⌋ := by
  have hfloor := floor_abs_percent_sub_fifty (100 * lc) (pow_pos hn 2)
  push_cast at hfloor
  rw [hfloor, penaltyRule4]
  push_cast
  rfl

theorem penaltyRule4_truncPercent_eq_floor (lc n : Nat) :
    (penaltyRule4 .truncPercent lc n : ℤ) = 10 * ⌊|((⌊(100 * lc : ℚ) / n ^ 2⌋ : ℤ) : ℚ) - 50| / 5⌋ := by
  have hpercent : ⌊(100 * lc : ℚ) / n ^ 2⌋ = ((100 * lc / n ^ 2 : Nat) : Int) := by
    rw [Int.natCast_div, ← Rat.floor_natCast_div_natCast]
    push_cast
    rfl
  have hfloor := floor_abs_percent_sub_fifty (100 * lc / n ^ 2) one_pos
  rw [Nat.cast_one, div_one] at hfloor
  rw [hpercent, Int.cast_natCast, hfloor, penaltyRule4]
  push_cast
  rfl

theorem ten_dvd_penaltyRule4 (mode : R4Mode) (lc n : Nat) : 10 ∣ penaltyRule4 mode lc n := by
  cases mode <;> exact dvd_mul_right 10 _

/-- A percentage from 0 to 100 is at most 50 away from 50. -/
theorem penaltyRule4_le (mode : R4Mode) {lc n : Nat} (hlc : lc ≤ n ^ 2) : penaltyRule4 mode lc n ≤ 100 := by
  cases mode with
  | exactRatio =>
    have hdist : (((100 * lc : Nat) - (50 * n ^ 2 : Nat) : Int)).natAbs ≤ 5 * n ^ 2 * 10 := by omega
    have hsteps := Nat.div_le_of_le_mul hdist
    rw [penaltyRule4]
    omega
  | truncPercent =>
    have hpercent : 100 * lc / n ^ 2 ≤ 100 := Nat.div_le_of_le_mul (by omega)
    rw [penaltyRule4]
    generalize 100 * lc / n ^ 2 = percent at hpercent ⊢
    omega

/-- The light and the dark count are equally far from one half. -/
theorem penaltyRule4_exactRatio_dark {lc n : Nat} (hlc : lc ≤ n ^ 2) :
    penaltyRule4 .exactRatio (n ^ 2 - lc) n = penaltyRule4 .exactRatio lc n := by
  have hdist : (((100 * (n ^ 2 - lc) : Nat) - (50 * n ^ 2 : Nat) : Int)).natAbs
      = (((100 * lc : Nat) - (50 * n ^ 2 : Nat) : Int)).natAbs := by omega
  rw [penaltyRule4, penaltyRule4, hdist]

/-- Settles O46: the parts above, for the light count of a matrix and for every count it can have. -/
theorem rule4InBothModes : Obligations.Rule4InBothModes :=
  ⟨lightCount_eq_card, fun lc n hn hlc =>
    ⟨penaltyRule4_exactRatio_eq_floor lc hn, penaltyRule4_truncPercent_eq_floor lc n,
      fun mode => ⟨ten_dvd_penaltyRule4 mode lc n, penaltyRule4_le mode hlc⟩, penaltyRule4_exactRatio_dark hlc⟩⟩

/-! ### Bounds -/

theorem sumTo_sumTo_le (a b : Nat) {k : Nat} {f : Nat → Nat → Nat} (h : ∀ r c, f r c ≤ k) :
    sumTo a (fun r => sumTo b (f r)) ≤ a * (b * k) :=
  sumTo_le fun r => sumTo_le (h r)

theorem penaltyRule1_le (m : Nat → Nat → Bool) (n : Nat) : penaltyRule1 m n ≤ 6 * n ^ 2 := by
  have hcell : ∀ r c, (if 5 < sameNeighbours m n r c then 3 + (sameNeighbours m n r c - 5) else 0) ≤ 6 := fun r c => by
    have height := sameNeighbours_le_eight m n r c
    split <;> omega
  calc penaltyRule1 m n ≤ n * (n * 6) := sumTo_sumTo_le n n hcell
    _ = 6 * n ^ 2 := by ring

theorem ite_le_left (p : Prop) [Decidable p] (k : Nat) : (if p then k else 0) ≤ k := by
  split <;> omega

theorem penaltyRule2_le (m : Nat → Nat → Bool) (n : Nat) : penaltyRule2 m n ≤ 3 * (n - 1) ^ 2 :=
  calc penaltyRule2 m n ≤ (n - 1) * ((n - 1) * 3) := sumTo_sumTo_le _ _ fun _ _ => ite_le_left _ 3
    _ = 3 * (n - 1) ^ 2 := by ring

theorem penaltyRule3_le (m : Nat → Nat → Bool) (n : Nat) : penaltyRule3 m n ≤ 80 * n * (n - 6) :=
  calc penaltyRule3 m n ≤ n * ((n - 6) * 40) + n * ((n - 6) * 40) :=
        add_le_add (sumTo_sumTo_le _ _ fun _ _ => ite_le_left _ 40) (sumTo_sumTo_le _ _ fun _ _ => ite_le_left _ 40)
    _ = 80 * n * (n - 6) := by ring

theorem lightCount_le (m : Nat → Nat → Bool) (n : Nat) : lightCount m n ≤ n ^ 2 :=
  calc lightCount m n ≤ n * (n * 1) := sumTo_sumTo_le _ _ fun r c => by split <;> omega
    _ = n ^ 2 := by ring

/-- The largest side gives the largest bounds, and their sum is below 2^22. -/
theorem penalty_lt (m : Nat → Nat → Bool) (mode : R4Mode) {n : Nat} (hn : n ≤ 177) :
    penaltyRule1 m n + penaltyRule2 m n + penaltyRule3 m n + penaltyRule4 mode (lightCount m n) n < 2 ^ 22 := by
  have h1 : penaltyRule1 m n ≤ 6 * 177 ^ 2 := (penaltyRule1_le m n).trans (by gcongr)
  have h2 : penaltyRule2 m n ≤ 3 * (177 - 1) ^ 2 := (penaltyRule2_le m n).trans (by gcongr)
  have h3 : penaltyRule3 m n ≤ 80 * 177 * (177 - 6) := (penaltyRule3_le m n).trans (by gcongr)
  have h4 := penaltyRule4_le mode (lightCount_le m n)
  omega

/-- Settles O47: `penalty_lt` needs the greatest side alone. -/
theorem penaltiesAreBounded : Obligations.PenaltiesAreBounded := fun m mode n _ hn =>
  ⟨penaltyRule1_le m n, penaltyRule2_le m n, penaltyRule3_le m n, penaltyRule4_le mode (lightCount_le m n),
    penalty_lt m mode hn⟩

end Sys2Proof.Machine
end

section
/-! PROOFS. MASK_EVAL (43_mask.md R300, R305): the legal sides, the registers a trial writes, and that the scores depend on
the cells inside the matrix alone. -/

namespace Sys2Proof.Machine

/-! ### The scores of a trial -/

theorem decode_maskEval_word (k : BitVec 3) : decode (0x30#8 ++ 0#21 ++ k) = .ok (.maskEval k.toNat) := by
  refine (decode_eq_ok_iff_matches .maskEval rfl (by decide) (by decide) ?fields).2 (append_and_mask (0x30#8 ++ 0#21) k)
  case fields => exact congrArg BitVec.toNat BitVec.extractLsb'_append_eq_right.symm

/-- R300's sides are those of the versions 1 to 40. -/
theorem badSide_eq_false_iff (n : Nat) : badSide n = false ↔ ∃ v, 1 ≤ v ∧ v ≤ 40 ∧ n = 4 * v + 17 := by
  have hmin : Config.sideMin = 21 := rfl
  have hmax : Config.sideMax = 177 := rfl
  simp only [badSide, Bool.or_eq_false_iff, Bool.not_eq_false', beq_iff_eq, decide_eq_false_iff_not, hmin, hmax]
  constructor
  · rintro ⟨⟨hmod, hlow⟩, hhigh⟩
    exact ⟨(n - 17) / 4, by omega, by omega, by omega⟩
  · rintro ⟨v, hlow, hhigh, rfl⟩
    omega

theorem exec_maskEval_badSide {s : State} (k : Nat) (h : ¬∃ v, 1 ≤ v ∧ v ≤ 40 ∧ s.matSize.toNat = 4 * v + 17) :
    exec (.maskEval k) s = .next (afterError .configError 2 s) := by
  have hbad : badSide (side s) = true := eq_true_of_ne_false (mt (badSide_eq_false_iff (side s)).1 h)
  have hcheck : firstError [(badSide (side s), configError 0x2)] = some (configError 0x2) := if_pos hbad
  rw [exec, execMaskEval, complete_error hcheck]
  rfl

theorem exec_maskEval_legalSide {s : State} (k : Nat) (h : ∃ v, 1 ≤ v ∧ v ≤ 40 ∧ s.matSize.toNat = 4 * v + 17) :
    exec (.maskEval k) s = .next (completeOk (recordPenalty k (ruleScores s) s)) := by
  have hlegal : badSide (side s) = false := (badSide_eq_false_iff (side s)).2 h
  exact complete_ok (by rw [hlegal]; rfl)

theorem toNat_ofNat_of_lt {v : Nat} (h : v < 2 ^ 22) : (BitVec.ofNat 32 v).toNat = v := Nat.mod_eq_of_lt (by omega)

theorem recordPenalty_pens_same (k : Fin 8) (p : Nat × Nat × Nat × Nat) (s : State) :
    (recordPenalty k p s).pens[k] = BitVec.ofNat 32 (p.1 + p.2.1 + p.2.2.1 + p.2.2.2) := by
  simp [recordPenalty]

theorem recordPenalty_pens_ne {k j : Fin 8} (p : Nat × Nat × Nat × Nat) (s : State) (h : j ≠ k) :
    (recordPenalty k p s).pens[j] = s.pens[j] := by
  simp [recordPenalty, Fin.val_ne_of_ne h.symm]

theorem recordPenalty_penValid (k : Fin 8) (j : Nat) (p : Nat × Nat × Nat × Nat) (s : State) :
    (recordPenalty k p s).penValid.getLsbD j = (s.penValid.getLsbD j || decide (j = k.val)) := by
  rw [recordPenalty, BitVec.getLsbD_or, ← BitVec.twoPow_eq, BitVec.getLsbD_twoPow]
  simp [eq_comm]

/-- Scores whose sum is below the bound of R306 do not wrap in their registers, and neither does the sum. -/
theorem recordPenalty_toNat (k : Fin 8) {p : Nat × Nat × Nat × Nat} (s : State)
    (h : p.1 + p.2.1 + p.2.2.1 + p.2.2.2 < 2 ^ 22) :
    (recordPenalty k p s).penR1.toNat = p.1 ∧ (recordPenalty k p s).penR2.toNat = p.2.1
    ∧ (recordPenalty k p s).penR3.toNat = p.2.2.1 ∧ (recordPenalty k p s).penR4.toNat = p.2.2.2
    ∧ (recordPenalty k p s).pens[k].toNat = p.1 + p.2.1 + p.2.2.1 + p.2.2.2 := by
  rw [recordPenalty_pens_same]
  exact ⟨toNat_ofNat_of_lt (by omega), toNat_ofNat_of_lt (by omega), toNat_ofNat_of_lt (by omega),
    toNat_ofNat_of_lt (by omega), toNat_ofNat_of_lt h⟩

/-- Settles O48: a legal side passes the check, and its scores fit the registers by `penalty_lt`. -/
theorem maskEvalScoresTheMatrix : Obligations.MaskEvalScoresTheMatrix := by
  refine ⟨decode_maskEval_word, fun k s => ⟨exec_maskEval_badSide k, fun hside => ?legal⟩⟩
  case legal =>
    have hle : side s ≤ 177 := by
      obtain ⟨v, -, hv, hn⟩ := hside
      rw [side]
      omega
    obtain ⟨h1, h2, h3, h4, hsum⟩ := recordPenalty_toNat k s (p := ruleScores s) (penalty_lt (matCell s) s.sampledR4 hle)
    refine ⟨_, exec_maskEval_legalSide k hside, h1, h2, h3, h4, ?sum, fun j hj => recordPenalty_pens_ne (ruleScores s) s hj,
      fun j _ => recordPenalty_penValid k j (ruleScores s) s, rfl, rfl, rfl⟩
    case sum =>
      simp only [completeOk_penR1, completeOk_penR2, completeOk_penR3, completeOk_penR4, h1, h2, h3, h4]
      exact hsum

/-! ### The cells outside the matrix -/

section
variable {m m' : Nat → Nat → Bool} {n : Nat} (h : ∀ r c, r < n → c < n → m' r c = m r c)
include h

theorem sameNeighbours_congr {r c : Nat} (hr : r < n) (hc : c < n) : sameNeighbours m' n r c = sameNeighbours m n r c := by
  refine congrArg List.length (List.filter_congr fun o _ => Bool.eq_iff_iff.2 ?_)
  rw [sameColourAt_iff, sameColourAt_iff]
  refine and_congr_right fun hinside => ?_
  rw [h r c hr hc, h _ _ (by omega) (by omega)]

theorem penaltyRule1_congr : penaltyRule1 m' n = penaltyRule1 m n :=
  sumTo_congr fun r hr => sumTo_congr fun c hc => by rw [sameNeighbours_congr h hr hc]

theorem penaltyRule2_congr : penaltyRule2 m' n = penaltyRule2 m n := by
  refine sumTo_congr fun r hr => sumTo_congr fun c hc => ?_
  rw [h r c (by omega) (by omega), h (r + 1) c (by omega) (by omega), h r (c + 1) (by omega) (by omega),
    h (r + 1) (c + 1) (by omega) (by omega)]

theorem penaltyRule3_congr : penaltyRule3 m' n = penaltyRule3 m n := by
  refine congrArg₂ (· + ·) (sumTo_congr fun r hr => sumTo_congr fun c hc => ?_)
    (sumTo_congr fun c hc => sumTo_congr fun r hr => ?_)
  · rw [List.map_congr_left fun j hj => h r (c + j) hr (by rw [List.mem_range] at hj; omega)]
  · rw [List.map_congr_left fun j hj => h (r + j) c (by rw [List.mem_range] at hj; omega) hc]

theorem lightCount_congr : lightCount m' n = lightCount m n :=
  sumTo_congr fun r hr => sumTo_congr fun c hc => by rw [h r c hr hc]

end

theorem ruleScores_congr {s s' : State} (hsize : s'.matSize = s.matSize) (hmode : s'.sampledR4 = s.sampledR4)
    (hcells : ∀ r c, r < side s → c < side s → matCell s' r c = matCell s r c) : ruleScores s' = ruleScores s := by
  have hside : side s' = side s := congrArg BitVec.toNat hsize
  rw [ruleScores, hside, hmode, penaltyRule1_congr hcells, penaltyRule2_congr hcells, penaltyRule3_congr hcells,
    lightCount_congr hcells, ruleScores]

/-- Settles O49: equal scores are recorded as equal values, whatever the rest of the states is. -/
theorem maskEvalIgnoresCellsOutside : Obligations.MaskEvalIgnoresCellsOutside := by
  intro k s s' t t' hsize hmode hcells hside ht ht'
  rw [exec_maskEval_legalSide k hside] at ht
  rw [exec_maskEval_legalSide k (hsize ▸ hside), ruleScores_congr hsize hmode hcells] at ht'
  cases ht
  cases ht'
  refine ⟨rfl, rfl, rfl, rfl, ?_⟩
  simp only [completeOk_pens, recordPenalty_pens_same]

end Sys2Proof.Machine
end

section
/-! PROOFS. MASK_SELECT and MASK_CLEAR (43_mask.md R310, R311). -/

namespace Sys2Proof.Machine

/-- b is the lowest of the indices up to n at which f is least. -/
def IsFirstLeast (f : Nat → Nat) (n b : Nat) : Prop := b ≤ n ∧ (∀ j, j ≤ n → f b ≤ f j) ∧ ∀ j, j < b → f b < f j

/-- One comparison of R310's loop: a strictly smaller value moves the choice, a tie does not. -/
theorem IsFirstLeast.next {f : Nat → Nat} {n b : Nat} (hb : IsFirstLeast f n b) :
    IsFirstLeast f (n + 1) (if f (n + 1) < f b then n + 1 else b) := by
  obtain ⟨hle, hleast, hfirst⟩ := hb
  split
  next hlt =>
    refine ⟨le_rfl, fun j hj => ?_, fun j hj => hlt.trans_le (hleast j (by omega))⟩
    rcases Nat.le_succ_iff.1 hj with hj | rfl
    · exact hlt.le.trans (hleast j hj)
    · exact le_rfl
  next hge =>
    refine ⟨by omega, fun j hj => ?_, hfirst⟩
    rcases Nat.le_succ_iff.1 hj with hj | rfl
    · exact hleast j hj
    · exact not_lt.1 hge

theorem isFirstLeast_foldl (f : Nat → Nat) (n : Nat) :
    IsFirstLeast f n ((List.range' 1 n).foldl (fun best k => if f k < f best then k else best) 0) := by
  induction n with
  | zero => exact ⟨le_rfl, fun j hj => (congrArg f (Nat.le_zero.1 hj)).ge, fun j hj => absurd hj (Nat.not_lt_zero j)⟩
  | succ n ih =>
    rw [List.range'_1_concat, List.foldl_concat, Nat.add_comm 1 n]
    exact ih.next

theorem isFirstLeast_bestPattern (pens : Vector Word 8) : IsFirstLeast (fun k => pens[k]!.toNat) 7 (bestPattern pens) :=
  isFirstLeast_foldl (fun k => pens[k]!.toNat) 7

theorem exists_bestPattern_eq (pens : Vector Word 8) : ∃ k : Fin 8, bestPattern pens = k.val
    ∧ (∀ j : Fin 8, pens[k].toNat ≤ pens[j].toNat) ∧ ∀ j : Fin 8, j < k → pens[k].toNat < pens[j].toNat := by
  have hslot : ∀ j : Fin 8, pens[j.val]! = pens[j] := fun j => getElem!_pos pens j.val j.isLt
  have hbest := isFirstLeast_bestPattern pens
  generalize bestPattern pens = b at hbest ⊢
  obtain ⟨hle, hleast, hfirst⟩ := hbest
  have hb : b < 8 := by omega
  refine ⟨⟨b, hb⟩, rfl, fun j => ?_, fun j hj => ?_⟩
  · simpa only [hslot j, hslot ⟨b, hb⟩] using hleast j.val (by omega)
  · simpa only [hslot j, hslot ⟨b, hb⟩] using hfirst j.val hj

/-- Settles O50: the check of PEN_VALID comes first, and then the loop of `bestPattern` finds the first least slot. -/
theorem maskSelectPicksTheLowestLeast : Obligations.MaskSelectPicksTheLowestLeast := by
  refine ⟨by decide, fun s => ?exec⟩
  case exec =>
    have hchecks : firstError [(!(s.penValid == 0xFF#8), sequenceError 4)]
        = if s.penValid ≠ 0xFF#8 then some (sequenceError 4) else none := by
      simp only [firstError, Bool.not_eq_true', beq_eq_false_iff_ne]
    rw [exec, execMaskSelect]
    refine complete_report_or hchecks fun _ hpass => ?_
    obtain ⟨k, hk, hleast, hfirst⟩ := exists_bestPattern_eq s.pens
    refine ⟨k, hleast, hfirst, ?_⟩
    rw [complete_ok hpass, hk]
    rfl

theorem selWord_eq_zero {s : State} (hvalid : s.selValid = false) (hmask : s.selMask = 0#3) : selWord s = 0#32 := by
  rw [selWord, hvalid, hmask]
  rfl

/-- Settles O51: MASK_CLEAR has no check, and it writes the reset values of the penalty registers and SEL. -/
theorem maskClearDiscardsTheResults : Obligations.MaskClearDiscardsTheResults := by
  refine ⟨by decide, fun s => ⟨completeOk (clearPenalties s), rfl, rfl, selWord_eq_zero rfl rfl, fun k => ?pens, rfl, rfl,
    rfl, rfl, rfl, rfl, rfl⟩⟩
  case pens => exact Vector.getElem_replicate k.isLt

end Sys2Proof.Machine
end

section
/-! PROOFS. Issue, completion and the step (44_system.md R330 to R335): whose turn it is, what a move of the host does with
each kind of pending input, and that a command in flight ends, by its completion or by a soft reset. -/

namespace Sys2Proof.Machine

/-! ### Issue -/

/-- R331: a write to CMD while BUSY = 0 is performed, and it is the issue of the word. -/
theorem hostWrite_cmd {s : State} (w : Word) (hidle : s.busy = false) : hostWrite s 32 0x00C#12 w = issue w s :=
  hostWrite_regOffset .cmd w (.inl hidle)

/-- Settles O10: the write is performed, and `isMaskEval` is the decoder's answer. -/
theorem writingCmdIssuesTheCommand : Obligations.WritingCmdIssuesTheCommand := by
  intro s w hidle
  rw [hostWrite_cmd w hidle, issue, isMaskEval]
  cases decode w with
  | error e => rfl
  | ok i => cases i <;> rfl

/-- A word of op 0x00 with another bit set breaks NOP's must-be-zero bits (R151). -/
theorem decode_of_op_zero {w : Word} (hop : w.extractLsb' 24 8 = 0x00#8) (hne : w ≠ 0x00000000#32) :
    decode w = .error .mustBeZero := by
  have hrow : opcodeOf w = some .nop := by
    rw [opcodeOf, hop]
    rfl
  have hbits : w &&& Opcode.nop.format.mask ≠ Opcode.nop.matchWord := by
    rw [show Opcode.nop.format.mask = 0xFFFFFFFF#32 from rfl, and_fullMask]
    exact hne
  simp only [decode, hrow, if_neg hbits]

/-- Settles O11: NOP has no check and no effect, so only the issue and BUSY = 0 and DONE = 1 of the completion are left. -/
theorem nopOnlyIssuesAndCompletes : Obligations.NopOnlyIssuesAndCompletes := by
  refine ⟨rfl, fun w => decode_of_op_zero, fun s hidle => ?_⟩
  rw [hostWrite_cmd _ hidle, exec, execNop, complete_ok rfl, completeOk, hidle]
  rfl

/-! ### Soft reset -/

/-- R451: a CTRL write with bit 31 = 1 is performed in every state, and it is the reset. -/
theorem hostWrite_softReset (s : State) : hostWrite s 32 0x008#12 0x80000000#32 = deviceReset s :=
  hostWrite_regOffset .ctrl 0x80000000#32 (.inr rfl)

/-- After a reset nothing of the device is left but the number of its draws. -/
theorem deviceReset_eq_of_keeps {s t : State} (h : Keeps s t) : deviceReset t = deviceReset s := by
  rw [deviceReset, h.draws, h.host, h.turns, h.replies, h.cmdErrors, h.accessErrors, deviceReset]

/-- Settles O15: a completion changes nothing that a reset keeps, and an error report only the record of errors. -/
theorem softResetAbandonsTheCommand : Obligations.SoftResetAbandonsTheCommand := by
  intro i s t h
  rw [hostWrite_softReset, hostWrite_softReset]
  rcases exec_cases h with ⟨e, _, rfl⟩ | ⟨u, hkeeps, rfl⟩
  · rfl
  · have hreset : deviceReset (completeOk u) = deviceReset s := deviceReset_eq_of_keeps (t := u) hkeeps
    rw [hreset]
    rfl

/-! ### The moves of a step -/

/-- A step on the host's turn is the host's move, with the turn used up. -/
theorem step_of_host {s : State} (h : nextAgent s = .host) : step s = .next (hostTurn (takeTurn s)) := by
  rw [step, h]

/-- R332: a command in flight is completed by its meaning. -/
theorem engineTurn_of_ok {s : State} {i : Instr} (hbusy : s.busy = true) (h : decode s.lastCmd = .ok i) :
    engineTurn s = exec i s := by
  rw [engineTurn, if_pos hbusy, h]

theorem nextAgent_cons {s : State} {a : Agent} {rest : List Agent} (h : s.turns = a :: rest) : nextAgent s = a := by
  rw [nextAgent, h]

theorem nextAgent_nil {s : State} (h : s.turns = []) : nextAgent s = if s.busy then .engine else .host := by
  rw [nextAgent, h]

/-- Bit 0 of STATUS is BUSY (R33). -/
theorem statusWord_getLsbD_zero (s : State) : (statusWord s).getLsbD 0 = s.busy := by
  rw [statusWord, BitVec.getLsbD_append]
  simp

/-- R155: a WAIT reads STATUS, notes the word, and stays pending while BUSY = 1. -/
theorem hostTurn_waitIdle {s : State} {rest : List HostInput} (h : s.host = .waitIdle :: rest) :
    hostTurn s = { s with
      host := if s.busy then .waitIdle :: rest else rest
      replies := (hostRead s 32 0x004#12).2 :: s.replies } := by
  have hturn : hostTurn s
      = noteReply (hostRead (if (statusWord s).getLsbD 0 then s else { s with host := rest }) 32 0x004#12) := by
    rw [hostTurn, h]
  have hpending : (if (statusWord s).getLsbD 0 then s else { s with host := rest })
      = { s with host := if s.busy then .waitIdle :: rest else rest } := by
    rw [statusWord_getLsbD_zero, ← h]
    split <;> rfl
  have hread (u : State) : hostRead u 32 0x004#12 = (u, statusWord u) := hostRead_regOffset .status (.inr rfl)
  rw [hturn, hpending, hread, hread s]
  rfl

/-- A read access does not touch the words noted before. -/
theorem hostRead_replies (s : State) (width : Nat) (o : BitVec 12) : (hostRead s width o).1.replies = s.replies := by
  refine hostRead_ind (fun u => u.replies = s.replies) s width o rfl (fun _ _ => rfl) (fun r _ _ => ?_)
  obtain ⟨u, hu⟩ := afterRead_frame s r
  rw [hu]

/-- Settles O5: the lemmas above, one for each turn and each kind of pending input. -/
theorem stepRunsTheDecodedCommand : Obligations.StepRunsTheDecodedCommand := by
  refine ⟨fun s i hagent hbusy hi => ?engine, fun s => step_of_host, fun s a rest => nextAgent_cons,
    fun s => nextAgent_nil, fun s h => ?nothing, fun s width o rest h => ?read, fun s width o v rest h => ?write,
    fun s rest => hostTurn_waitIdle, fun s rest h => ?reset⟩
  case engine =>
    rw [step_of_engine hagent]
    exact engineTurn_of_ok (s := takeTurn s) hbusy hi
  case read =>
    rw [hostTurn, h]
    simp only [noteReply, hostRead_replies]
  case nothing => rw [hostTurn, h]
  case write => rw [hostTurn, h]
  case reset =>
    rw [hostTurn, h]
    rfl

/-! ### A command in flight ends -/

/-- A completion, reported error or not, leaves the engine idle (R332, R402). -/
theorem busy_of_exec {i : Instr} {s t : State} (h : exec i s = .next t) : t.busy = false := by
  rcases exec_cases h with ⟨e, _, rfl⟩ | ⟨u, _, rfl⟩ <;> rfl

/-- Every command answers a next state. -/
theorem exists_exec_eq_next (i : Instr) (s : State) : ∃ t, exec i s = .next t := by
  cases i <;> rw [exec] <;> exact complete_next _ _ s

/-- The engine's move ends whatever is in flight, and leaves an idle engine idle. -/
theorem exists_engineTurn_eq_idle (s : State) : ∃ t, engineTurn s = .next t ∧ t.busy = false := by
  cases hbusy : s.busy with
  | false => exact ⟨s, by simp [engineTurn, hbusy], hbusy⟩
  | true =>
    cases hdecode : decode s.lastCmd with
    | error e => exact ⟨_, engineTurn_of_error hbusy hdecode, rfl⟩
    | ok i =>
      obtain ⟨t, ht⟩ := exists_exec_eq_next i s
      exact ⟨t, (engineTurn_of_ok hbusy hdecode).trans ht, busy_of_exec ht⟩

/-- No access changes the list of turns (log entry 2). -/
theorem afterWrite_turns (s : State) (v : Word) (r : Reg) : (afterWrite s v r).turns = s.turns := by
  rcases afterWrite_cases s v r with h | h | h | h | h <;> rw [h] <;> rfl

theorem afterRead_turns (s : State) (r : Reg) : (afterRead s r).turns = s.turns := by
  obtain ⟨u, hu⟩ := afterRead_frame s r
  rw [hu]

theorem hostTurn_turns (s : State) : (hostTurn s).turns = s.turns :=
  hostTurn_ind (fun u => u.turns = s.turns) s rfl (hhost := fun _ _ h => h) (hrep := fun _ _ h => h)
    (hacc := fun _ _ _ h => h) (hreset := fun _ h => h)
    (hread := fun u _ _ r h _ _ => (afterRead_turns u r).trans h)
    (hwrite := fun u _ _ v r h _ _ => (afterWrite_turns u v r).trans h)

/-- A run that begins with a step. -/
theorem run_succ {M : Host.Core} {s t : M.State} (h : M.step s = .next t) (k : Nat) : M.run (k + 1) s = M.run k t := by
  rw [Host.Core.run, h]

/-- A command in flight is off after one step of the engine. -/
theorem exists_step_eq_idle {s : State} (h : nextAgent s = .engine) : ∃ t, step s = .next t ∧ t.busy = false := by
  rw [step_of_engine h]
  exact exists_engineTurn_eq_idle (takeTurn s)

/-- Settles O9, by induction on the turns listed before the engine's: each host turn takes one off the list. -/
theorem aCommandInFlightEnds : Obligations.ACommandInFlightEnds := by
  intro s hbusy
  generalize hturns : s.turns = turns
  induction turns generalizing s with
  | nil =>
    obtain ⟨t, ht, hidle⟩ := exists_step_eq_idle (s := s) (by rw [nextAgent_nil hturns, if_pos hbusy])
    exact ⟨1, t, by simp, run_succ ht 0, hidle⟩
  | cons a rest ih =>
    cases a with
    | engine =>
      obtain ⟨t, ht, hidle⟩ := exists_step_eq_idle (nextAgent_cons hturns)
      exact ⟨1, t, by simp, run_succ ht 0, hidle⟩
    | host =>
      have hstep := step_of_host (nextAgent_cons hturns)
      cases hbusy' : (hostTurn (takeTurn s)).busy with
      | false => exact ⟨1, _, by simp, run_succ hstep 0, hbusy'⟩
      | true =>
        have hrest : (hostTurn (takeTurn s)).turns = rest := by
          rw [hostTurn_turns, takeTurn_turns, hturns, List.tail_cons]
        obtain ⟨k, t, hk, hrun, hidle⟩ := ih _ hbusy' hrest
        exact ⟨k + 1, t, by simpa using hk, (run_succ hstep k).trans hrun, hidle⟩

end Sys2Proof.Machine
end

section
/-! PROOFS. Errors and the interrupt (60_exceptions.md): how a command ends (R402), that nothing stops the machine (R404,
R421, R435), which accesses are access errors (R410, R411), and the interrupt output (R420). -/

namespace Sys2Proof.Machine

/-! ### Command errors -/

/-- Settles O12: `exec_cases` names the two ways, and an effect keeps the error report. -/
theorem commandErrorsChangeNothingElse : Obligations.CommandErrorsChangeNothingElse := by
  intro i s t h
  rcases exec_cases h with ⟨⟨c, info⟩, hcause, rfl⟩ | ⟨u, hkeeps, rfl⟩
  · exact .inr ⟨c, info, hcause, rfl⟩
  · exact .inl ⟨rfl, rfl, hkeeps.err, hkeeps.errCause, hkeeps.errInfo, hkeeps.cmdErrors⟩

/-! ### The engine never stops -/

theorem engineTurn_of_idle {s : State} (hidle : s.busy = false) : engineTurn s = .next s := by
  simp [engineTurn, hidle]

/-- Settles O7: the step is the engine's move, and an idle engine does not move. -/
theorem idleEngineKeepsEverything : Obligations.IdleEngineKeepsEverything := by
  intro s hidle hagent
  rw [step_of_engine hagent]
  exact engineTurn_of_idle (s := takeTurn s) hidle

theorem exists_step_eq_next (s : State) : ∃ t, step s = .next t := by
  cases hagent : nextAgent s with
  | engine =>
    obtain ⟨t, ht, _⟩ := exists_step_eq_idle hagent
    exact ⟨t, ht⟩
  | host => exact ⟨_, step_of_host hagent⟩

/-- Settles O8: either agent's move answers a next state, and so does every completion. -/
theorem nothingStopsTheMachine : Obligations.NothingStopsTheMachine := ⟨exists_step_eq_next, exists_exec_eq_next⟩

/-! ### The register map by offset -/

theorem regOffset_eq_toNat_of_regAt {o : BitVec 12} {r : Reg} (h : regAt o = some r) : regOffset r = o.toNat := by
  simpa using List.find?_some h

/-- The map ends at PEN7. -/
theorem regOffset_lt (r : Reg) : regOffset r < 0x0A0 := by
  cases r with
  | group k => simp only [regOffset]; omega
  | penR k => simp only [regOffset]; omega
  | pen k => simp only [regOffset]; omega
  | _ => decide

/-- Two registers have different offsets, so an offset names its register. -/
theorem eq_iff_regOffset_eq {r r' : Reg} {n : Nat} (hr' : regOffset r' = n) : r = r' ↔ regOffset r = n := by
  refine ⟨fun h => h ▸ hr', fun h => Option.some.inj ?_⟩
  rw [← regAt_regOffset r, h, ← hr', regAt_regOffset r']

/-- Every aligned offset below the end of the map is the offset of a register, and none from there on is (R62). -/
theorem regAt_eq_none_iff {o : BitVec 12} (haligned : o.toNat % 4 = 0) : regAt o = none ↔ 0x0A0 ≤ o.toNat := by
  constructor
  · intro hnone
    by_contra hlow
    have hmapped : ∀ k < 40, regAt (BitVec.ofNat 12 (4 * k)) ≠ none := by decide
    apply hmapped (o.toNat / 4) (by omega)
    rwa [Nat.mul_div_cancel' (Nat.dvd_of_mod_eq_zero haligned), BitVec.ofNat_toNat, BitVec.setWidth_eq]
  · intro hhigh
    cases hr : regAt o with
    | none => rfl
    | some r =>
      have hlow := regOffset_lt r
      rw [regOffset_eq_toNat_of_regAt hr] at hlow
      omega

/-- The accesses refused while BUSY = 1, by offset (R113). -/
theorem allowedWhileBusy_eq_false_iff (dir : Dir) (r : Reg) : allowedWhileBusy dir r = false ↔
    ¬(dir = .read ∧ regOffset r ∈ [0x000, 0x004, 0x008, 0x00C]) ∧ ¬(dir = .write ∧ regOffset r ∈ [0x004, 0x008]) := by
  have hid : r = .id ↔ regOffset r = 0x000 := eq_iff_regOffset_eq rfl
  have hstatus : r = .status ↔ regOffset r = 0x004 := eq_iff_regOffset_eq rfl
  have hctrl : r = .ctrl ↔ regOffset r = 0x008 := eq_iff_regOffset_eq rfl
  have hcmd : r = .cmd ↔ regOffset r = 0x00C := eq_iff_regOffset_eq rfl
  cases dir <;> simp [allowedWhileBusy, and_assoc, hid, hstatus, hctrl, hcmd]

/-- The registers marked RO, by offset (R62). -/
theorem regReadOnly_iff (r : Reg) : regReadOnly r = true ↔
    regOffset r ∈ [0x000, 0x010, 0x014, 0x018, 0x01C, 0x020, 0x034, 0x03C, 0x050, 0x054, 0x058] ∨ 0x068 ≤ regOffset r := by
  cases r with
  | group k => fin_cases k <;> decide
  | penR k => fin_cases k <;> decide
  | pen k => fin_cases k <;> decide
  | _ => decide

/-- The registers with checks of their own, by offset (R411 step 5). -/
theorem portCheck_eq (s : State) (dir : Dir) (r : Reg) : portCheck s dir r =
    if regOffset r = 0x028 then bufPortCheck s dir else if regOffset r = 0x064 then matPortCheck s else none := by
  by_cases hbuf : regOffset r = 0x028
  · obtain rfl : r = .bufData := (eq_iff_regOffset_eq rfl).2 hbuf
    rfl
  by_cases hmat : regOffset r = 0x064
  · obtain rfl : r = .matData := (eq_iff_regOffset_eq rfl).2 hmat
    rfl
  rw [if_neg hbuf, if_neg hmat]
  exact portCheck_of_not_port s dir (mt (eq_iff_regOffset_eq rfl).1 hbuf) (mt (eq_iff_regOffset_eq rfl).1 hmat)

/-! ### The checks of the ports by number -/

theorem bufOfSel_eq_none_iff : ∀ sel : BitVec 4, bufOfSel sel = none ↔ 6 ≤ sel.toNat := by decide

theorem sel_of_bufOfSel {sel : BitVec 4} {b : Buf} (h : bufOfSel sel = some b) : sel.toNat = b.sel := by
  have hsel : b.sel = sel.toNat := by simpa using List.find?_some h
  exact hsel.symm

theorem getD_sel_eq_cap (b : Buf) : [4096, 256, 256, 256, 4096, 32768].getD b.sel 0 = b.cap := by cases b <;> rfl

theorem hostReadOnly_iff (b : Buf) : b.hostReadOnly = true ↔ 3 ≤ b.sel := by cases b <;> decide

/-- The checks of BUF_DATA by the SEL code, its capacity written out (R101, R102). -/
theorem bufPortCheck_eq (s : State) (dir : Dir) : bufPortCheck s dir =
    if 6 ≤ s.bufSel.toNat then some .unmapped
    else if [4096, 256, 256, 256, 4096, 32768].getD s.bufSel.toNat 0 ≤ s.bufIndex.toNat then some .bounds
    else if dir = .write ∧ 3 ≤ s.bufSel.toNat then some .readOnly
    else none := by
  rw [bufPortCheck]
  cases hb : bufOfSel s.bufSel with
  | none => rw [if_pos ((bufOfSel_eq_none_iff _).1 hb)]
  | some b =>
    have hmapped : ¬6 ≤ s.bufSel.toNat := mt (bufOfSel_eq_none_iff _).2 (by simp [hb])
    rw [if_neg hmapped, sel_of_bufOfSel hb, getD_sel_eq_cap]
    simp only [hostReadOnly_iff]

/-- The check of MAT_DATA, N_MAX written out (R107). -/
theorem matPortCheck_eq (s : State) : matPortCheck s =
    if min s.matSize.toNat 177 ≤ s.matRow.toNat ∨ (min s.matSize.toNat 177 + 31) / 32 ≤ s.matWord.toNat then some .bounds
    else none := rfl

/-! ### Access errors -/

theorem hostRead_of_accessError {s : State} {width : Nat} {o : BitVec 12} {c : AerrCause}
    (h : accessCheck s .read width o = some c) : hostRead s width o = (accessError c o s, 0#32) := by
  rw [hostRead, h]

theorem hostWrite_of_accessError {s : State} {width : Nat} {o : BitVec 12} {c : AerrCause} (v : Word)
    (h : accessCheck s .write width o = some c) : hostWrite s width o v = accessError c o s := by
  rw [hostWrite, h]

/-- Settles O52: after SIZE and UNMAPPED the access is at a register's offset, where each later check is a condition on the
offset. -/
theorem accessErrorsByCauseAndEffect : Obligations.AccessErrorsByCauseAndEffect := by
  refine ⟨fun s dir width o => ?_, fun s width o c => hostRead_of_accessError, fun s width o v c => hostWrite_of_accessError v⟩
  rw [accessCheck]
  by_cases hsize : width ≠ 32 ∨ o.toNat % 4 ≠ 0
  · rw [if_pos hsize, if_pos hsize]
  have haligned : o.toNat % 4 = 0 := by omega
  rw [if_neg hsize, if_neg hsize]
  cases hr : regAt o with
  | none => rw [if_pos ((regAt_eq_none_iff haligned).1 hr)]
  | some r =>
    have hmapped : ¬0x0A0 ≤ o.toNat := mt (regAt_eq_none_iff haligned).2 (by simp [hr])
    rw [if_neg hmapped, ← regOffset_eq_toNat_of_regAt hr, ← bufPortCheck_eq s dir, ← matPortCheck_eq s]
    simp only [allowedWhileBusy_eq_false_iff, regReadOnly_iff, portCheck_eq]

/-! ### The interrupt output -/

/-- The flags in STATUS (R33). -/
theorem statusWord_getLsbD_flags (s : State) : (statusWord s).getLsbD 1 = s.done ∧ (statusWord s).getLsbD 2 = s.err
    ∧ (statusWord s).getLsbD 3 = s.aerr := by
  simp only [statusWord, BitVec.getLsbD_append]
  simp

/-- The enables in CTRL (R35). -/
theorem ctrlWord_getLsbD_enables (s : State) : (ctrlWord s).getLsbD 0 = s.ieDone ∧ (ctrlWord s).getLsbD 1 = s.ieErr
    ∧ (ctrlWord s).getLsbD 2 = s.ieAerr := by
  simp only [ctrlWord, BitVec.getLsbD_append]
  simp

theorem irq_of_no_flag {s : State} (hdone : s.done = false) (herr : s.err = false) (haerr : s.aerr = false) :
    irq s = false := by
  simp [irq, hdone, herr, haerr]

theorem irq_of_no_enable {s : State} (hdone : s.ieDone = false) (herr : s.ieErr = false) (haerr : s.ieAerr = false) :
    irq s = false := by
  simp [irq, hdone, herr, haerr]

theorem irq_issue (w : Word) (s : State) : irq (issue w s) = (s.aerr && s.ieAerr) := by simp [irq]

/-- Settles O59: the flags and enables are the bits of their words, and each write leaves the flags or enables it clears. -/
theorem interruptOutput : Obligations.InterruptOutput := by
  intro s
  obtain ⟨hdone, herr, haerr⟩ := statusWord_getLsbD_flags s
  obtain ⟨hieDone, hieErr, hieAerr⟩ := ctrlWord_getLsbD_enables s
  refine ⟨?_, ?_, ?_, fun hidle w => ?_, rfl⟩
  · rw [hdone, herr, haerr, hieDone, hieErr, hieAerr, irq]
  · rw [writingStatusClearsFlags]
    exact irq_of_no_flag rfl rfl rfl
  · have hfields := (writingCtrlResetsOrStoresItsFields s 0#32).2 rfl
    rw [hfields]
    exact irq_of_no_enable rfl rfl rfl
  · rw [hostWrite_cmd w hidle, irq_issue]

end Sys2Proof.Machine
end

section
/-! PROOFS. Reset and hazards (70_reset_and_hazards.md): the sticky records of errors (R469), what a reset leaves to read
(R450, R452), and the invariants in the reset state. -/

namespace Sys2Proof.Machine

/-! ### The records of errors -/

/-- What R469 asks of a move from `s` to `t`: the two records only grow, and they still hold what STATUS shows. -/
structure RecordsGrow (s t : State) : Prop where
  cmdErrors : s.cmdErrors <:+ t.cmdErrors
  accessErrors : s.accessErrors <:+ t.accessErrors
  keepsRecordOk : recordOk s → recordOk t

theorem RecordsGrow.trans {s t u : State} (h : RecordsGrow s t) (k : RecordsGrow t u) : RecordsGrow s u where
  cmdErrors := h.cmdErrors.trans k.cmdErrors
  accessErrors := h.accessErrors.trans k.accessErrors
  keepsRecordOk hs := k.keepsRecordOk (h.keepsRecordOk hs)

/-- A move that leaves the records alone may clear ERR and AERR but not set them. -/
theorem RecordsGrow.of_records_eq {s t : State} (hcmd : t.cmdErrors = s.cmdErrors)
    (haccess : t.accessErrors = s.accessErrors) (herr : t.err = true → s.err = true)
    (haerr : t.aerr = true → s.aerr = true) : RecordsGrow s t where
  cmdErrors := hcmd ▸ List.suffix_rfl
  accessErrors := haccess ▸ List.suffix_rfl
  keepsRecordOk := fun ⟨hs, hsa⟩ => ⟨fun h => hcmd ▸ hs (herr h), fun h => haccess ▸ hsa (haerr h)⟩

theorem RecordsGrow.refl (s : State) : RecordsGrow s s := .of_records_eq rfl rfl id id

/-- An effect of a command touches neither the records nor the flags. -/
theorem RecordsGrow.of_keeps {s u : State} (h : Keeps s u) : RecordsGrow s u :=
  .of_records_eq h.cmdErrors h.accessErrors (h.err ▸ id) (h.aerr ▸ id)

theorem recordsGrow_commandError (e : CommandError) (s : State) : RecordsGrow s (commandError e s) where
  cmdErrors := List.suffix_cons e s.cmdErrors
  accessErrors := List.suffix_rfl
  keepsRecordOk := fun ⟨_, haccess⟩ => ⟨fun _ => List.cons_ne_nil e s.cmdErrors, haccess⟩

theorem recordsGrow_accessError (c : AerrCause) (o : BitVec 12) (s : State) : RecordsGrow s (accessError c o s) where
  cmdErrors := List.suffix_rfl
  accessErrors := List.suffix_cons (⟨c, o⟩ : AccessError) s.accessErrors
  keepsRecordOk := fun ⟨hcmd, _⟩ => ⟨hcmd, fun _ => List.cons_ne_nil _ s.accessErrors⟩

/-- A reset clears both flags and keeps the records, which are outside the device (log entry 7). -/
theorem recordsGrow_deviceReset (s : State) : RecordsGrow s (deviceReset s) := .of_records_eq rfl rfl nofun nofun

theorem recordsGrow_afterRead (s : State) (r : Reg) : RecordsGrow s (afterRead s r) := by
  obtain ⟨u, hu⟩ := afterRead_frame s r
  rw [hu]
  exact .of_records_eq rfl rfl id id

/-- A write clears flags (STATUS, a reset, an issue) or leaves them alone. -/
theorem recordsGrow_afterWrite (s : State) (v : Word) (r : Reg) : RecordsGrow s (afterWrite s v r) := by
  rcases afterWrite_cases s v r with h | h | h | h | h <;> rw [h]
  · exact .of_records_eq rfl rfl Bool.and_elim_left Bool.and_elim_left
  · exact recordsGrow_deviceReset s
  · exact .of_records_eq rfl rfl id id
  · exact .of_records_eq rfl rfl nofun id
  · exact .of_records_eq rfl rfl id id

theorem recordsGrow_exec {i : Instr} {s t : State} (h : exec i s = .next t) : RecordsGrow s t := by
  rcases exec_cases h with ⟨e, _, rfl⟩ | ⟨u, hkeeps, rfl⟩
  · exact recordsGrow_commandError e s
  · exact (RecordsGrow.of_keeps hkeeps).trans (.of_records_eq rfl rfl id id)

/-- Every move of a step is one of the moves above. -/
theorem recordsGrow_step {s t : State} (hstep : step s = .next t) : RecordsGrow s t :=
  step_ind (RecordsGrow s) hstep (.refl s)
    (hturn := fun _ _ h => h.trans (.of_records_eq rfl rfl id id))
    (hhost := fun _ _ h => h.trans (.of_records_eq rfl rfl id id))
    (hrep := fun _ _ h => h.trans (.of_records_eq rfl rfl id id))
    (hacc := fun u c o h => h.trans (recordsGrow_accessError c o u))
    (hreset := fun u h => h.trans (recordsGrow_deviceReset u))
    (hread := fun u _ _ r h _ _ => h.trans (recordsGrow_afterRead u r))
    (hwrite := fun u _ _ v r h _ _ => h.trans (recordsGrow_afterWrite u v r))
    (hill := fun u h _ => h.trans (recordsGrow_commandError _ u))
    (hexec := fun _ _ _ h _ hexec => h.trans (recordsGrow_exec hexec))

/-- Settles O21: `recordsGrow_step`, part by part. -/
theorem stepKeepsTheErrorRecords : Obligations.StepKeepsTheErrorRecords := by
  intro s t hstep
  obtain ⟨hcmd, haccess, hok⟩ := recordsGrow_step hstep
  exact ⟨hcmd, haccess, hok⟩

/-! ### The registers after a reset -/

/-- R450: 0 in every register but ID and the ports, which show the memories. -/
theorem regValue_reset {r : Reg} (hid : r ≠ .id) (hbuf : r ≠ .bufData) (hmat : r ≠ .matData) :
    regValue State.reset r = 0#32 := by
  cases r with
  | id => exact absurd rfl hid
  | bufData => exact absurd rfl hbuf
  | matData => exact absurd rfl hmat
  | group k => revert k; decide
  | penR k => revert k; decide
  | pen k => revert k; decide
  | _ => decide

/-- The registers after a reset of the device do not depend on the state it met. -/
theorem regValue_deviceReset (s : State) {r : Reg} (hbuf : r ≠ .bufData) (hmat : r ≠ .matData) :
    regValue (deviceReset s) r = regValue State.reset r := by
  cases r with
  | bufData => exact absurd rfl hbuf
  | matData => exact absurd rfl hmat
  | _ => rfl

/-- R452: nothing is listed in a memory of the reset state. -/
theorem bufMem_reset (b : Buf) : bufMem State.reset b = [] := by cases b <;> rfl

theorem bufMem_deviceReset (s : State) (b : Buf) : bufMem (deviceReset s) b = [] := by cases b <;> rfl

/-- R450: the reset input is a reset of the device. -/
theorem hostTurn_resetInput (s : State) (rest : List HostInput) :
    hostTurn { s with host := .resetInput :: rest } = deviceReset { s with host := rest } := rfl

/-- Settles O13: the values of `State.reset`, which the reset input leaves too. -/
theorem resetRegisterValues : Obligations.ResetRegisterValues := by
  rintro s rest t (rfl | rfl)
  · exact ⟨rfl, fun r => regValue_reset, rfl, irq_of_no_flag rfl rfl rfl, bufMem_reset, rfl⟩
  · rw [hostTurn_resetInput]
    exact ⟨rfl, fun r hid hbuf hmat => (regValue_deviceReset _ hbuf hmat).trans (regValue_reset hid hbuf hmat), rfl,
      irq_of_no_flag rfl rfl rfl, bufMem_deviceReset _, rfl⟩

/-! ### The invariants in the reset state -/

/-- An empty memory is canonical and within every capacity. -/
theorem bufOk_reset (b : Buf) : bufOk State.reset b := by
  rw [bufOk, bufMem_reset]
  exact ⟨Memory.wf_nil, Memory.below_nil b.cap⟩

theorem memoryOk_reset : memoryOk State.reset :=
  ⟨bufOk_reset .data, bufOk_reset .pa, bufOk_reset .pb, bufOk_reset .pr, bufOk_reset .cw, bufOk_reset .ec,
    Memory.wf_nil, Memory.below_nil _⟩

/-- Settles O16: no flag is set, every memory is empty, the lengths and SEL.MASK are 0. -/
theorem invariantsHoldAtReset : Obligations.InvariantsHoldAtReset := by
  refine ⟨?flags, memoryOk_reset, ?lengths, ecvOk_of_ecv rfl, ?selection, ?records⟩
  case flags => simp [flagsOk]
  case lengths => simp [lengthsOk]
  case selection => simp [selectionOk]
  case records => simp [recordOk]

end Sys2Proof.Machine
end
